-- ==== Sys2Proof/Word.lean ====
section
/-! DEFINITION. The words of the hardware: 8-bit bytes, 16-bit CPU addresses (rule R9), port numbers of any size
(rule R84; log 21). Everything is unsigned (rule R12). -/

namespace Sys2Proof

/-- A memory cell, a port byte, a latch (rule R9). -/
abbrev Byte := BitVec 8

/-- An address as the CPU engine issues it: 16 bits (rule R9). -/
abbrev Addr := BitVec 16

/-- A port number: a non-negative integer (rule R84). The recommended configuration's numbers lie in `0..255`; any other number
is a legal port, the harmless one of rules R161 and R168 (log 21). -/
abbrev Port := Nat

end Sys2Proof
end

