-- ==== Sys2Proof/Config.lean ====
section
/-! DEFINITION. The configuration record of rule R10 with the constraints of rule R11, the answers of the external CPU engine
(rule R100), and the free values: what the spec leaves open and no proof may look into. -/

namespace Sys2Proof

/-- The three input latches (rule R26). -/
inductive Latch where
  | sys | p1 | p2
  deriving DecidableEq, Repr

/-- One byte for each input latch: the latches themselves, their fixed masks or their fixed values. -/
structure LatchBytes where
  sys : Byte
  p1  : Byte
  p2  : Byte
  deriving DecidableEq, Repr

/-- One display pixel: red, green, blue, alpha at ascending frame offsets (rule R64(c)). -/
structure Pixel where
  r : Byte
  g : Byte
  b : Byte
  a : Byte
  deriving DecidableEq, Repr, Inhabited

/-- A Display Frame (rule R35): its pixels in index order, pixel `q` standing for the bytes `4q .. 4q+3`. -/
abbrev Frame := List Pixel

/-- The parameters of the hardware (rule R10). -/
structure Config where
  progBase : Nat
  progSize : Nat
  workBase : Nat
  workSize : Nat
  videoBase : Nat
  videoSize : Nat
  fastLen : Nat
  slowLen : Nat
  portOutShiftAmount : Port
  portOutSoundA : Port
  portOutShiftData : Port
  portOutSoundB : Port
  portOutWatchdog : Port
  portInSys : Port
  portInP1 : Port
  portInP2 : Port
  portInShift : Port
  bitUfoLoop : Fin 8
  bitShot : Fin 8
  bitFlash : Fin 8
  bitInvaderDie : Fin 8
  bitExtendedPlay : Fin 8
  bitFleet1 : Fin 8
  bitFleet2 : Fin 8
  bitFleet3 : Fin 8
  bitFleet4 : Fin 8
  bitUfoHit : Fin 8
  fixedMask : LatchBytes
  fixedValue : LatchBytes
  pixelWhite : Pixel
  pixelBlack : Pixel
  nsPerCycle : Nat
  framePeriodNs : Nat
  midOffsetNs : Nat
  clockBits : Nat
  /-- The vector of the mid-frame interrupt. Rule R109: the source gives a vector no type; a natural number is the model's choice
  (DESIGN CHOICE, log 32). -/
  vecMid : Nat
  /-- The vector of the end-of-frame interrupt; a natural number by the same choice (DESIGN CHOICE, log 32). -/
  vecEof : Nat
  batchSteps : Nat
  extendedPlayEvent : Bool
  deriving DecidableEq, Repr

/-- Rule R11(a), (b): three non-empty regions inside the 16 KB window, no two overlapping. -/
abbrev Config.RegionsOk (c : Config) : Prop :=
  (0 < c.progSize ∧ 0 < c.workSize ∧ 0 < c.videoSize) ∧
  (c.progBase + c.progSize ≤ 0x4000 ∧ c.workBase + c.workSize ≤ 0x4000 ∧ c.videoBase + c.videoSize ≤ 0x4000) ∧
  (c.progBase + c.progSize ≤ c.workBase ∨ c.workBase + c.workSize ≤ c.progBase) ∧
  (c.progBase + c.progSize ≤ c.videoBase ∨ c.videoBase + c.videoSize ≤ c.progBase) ∧
  (c.workBase + c.workSize ≤ c.videoBase ∨ c.videoBase + c.videoSize ≤ c.workBase)

/-- Rule R11(c): one pixel per video bit, every byte inside one fast-axis line. -/
abbrev Config.GeometryOk (c : Config) : Prop :=
  c.fastLen * c.slowLen = 8 * c.videoSize ∧ c.fastLen % 8 = 0

/-- Rule R11(d): the five output ports are distinct, the four input ports are distinct. -/
abbrev Config.PortsOk (c : Config) : Prop :=
  [c.portOutShiftAmount, c.portOutSoundA, c.portOutShiftData, c.portOutSoundB, c.portOutWatchdog].Nodup ∧
  [c.portInSys, c.portInP1, c.portInP2, c.portInShift].Nodup

/-- Rule R11(e): the five flag positions of each sound bank are distinct. -/
abbrev Config.SoundBitsOk (c : Config) : Prop :=
  [c.bitUfoLoop, c.bitShot, c.bitFlash, c.bitInvaderDie, c.bitExtendedPlay].Nodup ∧
  [c.bitFleet1, c.bitFleet2, c.bitFleet3, c.bitFleet4, c.bitUfoHit].Nodup

/-- Rules R11(f), (g), (h); the last conjunct says that the marks fit the clock at reset (rule R34 gives them the clock's
width; DEDUCED, log 19). -/
abbrev Config.TimeOk (c : Config) : Prop :=
  (0 < c.midOffsetNs ∧ c.midOffsetNs < c.framePeriodNs) ∧
  (0 < c.nsPerCycle ∧ 0 < c.framePeriodNs ∧ 0 < c.batchSteps) ∧
  c.vecMid ≠ c.vecEof ∧ c.framePeriodNs < 2 ^ c.clockBits

/-- Rule R11(i): a fixed value has no bit outside its mask. -/
abbrev Config.FixedOk (c : Config) : Prop :=
  c.fixedValue.sys &&& ~~~c.fixedMask.sys = 0 ∧ c.fixedValue.p1 &&& ~~~c.fixedMask.p1 = 0 ∧
  c.fixedValue.p2 &&& ~~~c.fixedMask.p2 = 0

/-- Rule R11: what makes a record a configuration of this hardware. -/
abbrev Config.Valid (c : Config) : Prop :=
  c.RegionsOk ∧ c.GeometryOk ∧ c.PortsOk ∧ c.SoundBitsOk ∧ c.TimeOk ∧ c.FixedOk

/-- One memory operation of the CPU engine during a step (rules R100, R140). -/
inductive MemOp where
  | readByte (addr : Addr)
  | writeByte (addr : Addr) (byte : Byte)
  | readBytes (addr : Addr) (count : Nat)
  | writeBytes (addr : Addr) (bytes : List Byte)
  deriving DecidableEq, Repr

/-- The engine's three-valued I/O request (rules R93, R151): no I/O pending, an output ready with its byte, an input awaited. -/
inductive IORequest where
  | idle
  | output (port : Port) (byte : Byte)
  | input (port : Port)
  deriving DecidableEq, Repr, Inhabited

/-- Everything one `CPU.step` answers (rules R100, R202): the cycles consumed, the memory operations performed during the
call in their order, the request left pending. -/
structure EngineAnswer where
  cycles  : Nat
  memOps  : List MemOp
  request : IORequest
  deriving DecidableEq, Repr, Inhabited

/-- FREE VALUE (U18, D1; log 9). What the unconstrained engine answers when the emulation thread steps it and the answer was
not given with the request; drawn by `State.freeCount`. -/
opaque Config.freeEngineAnswer : Nat → EngineAnswer

/-- FREE VALUE (U2, rule R36, D20; log 7). Pixel `q` of the frame mirror before anything was published. -/
opaque Config.freeMirrorPixel : Nat → Pixel

end Sys2Proof
end

