-- ==== Sys2Proof/Machine/Recommended.lean ====
section
/-! DEFINITION. The recommended configuration (rule R10 and rule R28). The spec itself marks these numbers as its own choice or
as general knowledge (D3, D7, D9, D10, D12 to D17; G1 to G10; log 2); `batchSteps` is this model's choice, since the spec
recommends none (D21; log 10). -/

namespace Sys2Proof

/-- The recommended configuration (rules R10, R28). -/
def Config.recommended : Config where
  progBase := 0x0000
  progSize := 0x2000
  workBase := 0x2000
  workSize := 0x0400
  videoBase := 0x2400
  videoSize := 0x1C00
  fastLen := 256
  slowLen := 224
  portOutShiftAmount := 2
  portOutSoundA := 3
  portOutShiftData := 4
  portOutSoundB := 5
  portOutWatchdog := 6
  portInSys := 0
  portInP1 := 1
  portInP2 := 2
  portInShift := 3
  bitUfoLoop := 0
  bitShot := 1
  bitFlash := 2
  bitInvaderDie := 3
  bitExtendedPlay := 4
  bitFleet1 := 0
  bitFleet2 := 1
  bitFleet3 := 2
  bitFleet4 := 3
  bitUfoHit := 4
  fixedMask := ⟨0x8F, 0x88, 0x8B⟩
  fixedValue := ⟨0x0E, 0x08, 0x00⟩
  pixelWhite := ⟨0xFF, 0xFF, 0xFF, 0xFF⟩
  pixelBlack := ⟨0x00, 0x00, 0x00, 0xFF⟩
  nsPerCycle := 500
  framePeriodNs := 16666666
  midOffsetNs := 8333333
  clockBits := 64
  vecMid := 1
  vecEof := 2
  batchSteps := 1
  extendedPlayEvent := true

end Sys2Proof
end

