-- ==== Sys2Proof/Syntax.lean ====
section
/-! DEFINITION. The operations of the hardware as syntax: one constructor of `Instr` for each row of spec/opcode_table.json
(rule R3: an instruction is one operation of a block; rule R90: three kinds of operation). The operands of an operation
are its constructor's arguments. -/

namespace Sys2Proof

/-- What a memory access selected by an address row does: read one byte or write one (rules R131, R132; log 20). -/
inductive Access where
  | read
  | write (byte : Byte)
  deriving DecidableEq, Repr

/-- A program image (rule R101): `length` bytes, zero but where `cells` lists an offset and its byte (log 17). -/
structure Image where
  length : Nat
  cells  : List (Nat × Byte)
  deriving DecidableEq, Repr

/-- The byte of an image at offset `k`. -/
def Image.byteAt (im : Image) (k : Nat) : Byte :=
  (im.cells.lookup k).getD 0

/-- Which frame a publish carries (rule R231): the conversion of the Video region as it stands, which is what the scheduler
publishes (rule R212), or a frame given with the request. -/
inductive FrameSource where
  | fresh
  | given (frame : Frame)
  deriving DecidableEq, Repr

/-- How far a publish runs before the presentation thread may move (rules R14, R231; log 22): all its lines, up to the
try-acquire, or from there on. The frame is the operand of the call, taken in its first part; `finish` has none, and a
well-formed one names no frame but `fresh`. -/
inductive PublishPart where
  | whole | acquire | finish
  deriving DecidableEq, Repr

/-- What a `read_frame` request does: `complete` and `acquire` say how far the read runs before another agent may move (rules R14,
R232; log 22), to its end or up to the acquire; `present` hands the frame read to `HOST.present` (rules R103, R241; log 31), which
has no row of its own. -/
inductive ReadPart where
  | complete | acquire | present
  deriving DecidableEq, Repr

/-- The 32 operations of spec/opcode_table.json, in the table's order. -/
inductive Instr where
  -- port operations (format IO, rules R94, R95)
  | outShiftAmount (byte : Byte)
  | outSoundBankA (byte : Byte)
  | outShiftData (byte : Byte)
  | outSoundBankB (byte : Byte)
  | outWatchdog (byte : Byte)
  | outOther (port : Port) (byte : Byte)
  | inSystem
  | inPlayer1
  | inPlayer2
  | inShiftResult
  | inOther (port : Port)
  -- the address decode of a CPU memory access (format MEM, rule R91)
  | regionProgram (addr : Addr) (access : Access)
  | regionWorking (addr : Addr) (access : Access)
  | regionVideo2400 (addr : Addr) (access : Access)
  | regionVideo2800 (addr : Addr) (access : Access)
  | regionVideo3000 (addr : Addr) (access : Access)
  -- direct operations (format OP, rule R105)
  | srFeed (byte : Byte)
  | srSetAmount (n : Byte)
  | srRead
  | readByte (addr : Addr)
  | writeByte (addr : Addr) (byte : Byte)
  | readBytes (addr : Addr) (count : Nat)
  | writeBytes (addr : Addr) (bytes : List Byte)
  | loadProgram (image : Image)
  | convert
  | schedIteration (answer : EngineAnswer)
  | schedBatch (answers : List EngineAnswer)
  | publish (source : FrameSource) (part : PublishPart)
  | readFrame (part : ReadPart)
  | latchSet (latch : Latch) (bit : Fin 8)
  | latchClear (latch : Latch) (bit : Fin 8)
  | runClear
  deriving DecidableEq, Repr

/-- The interface a request arrives on (rule R90): by name, as an I/O request, as an address on the CPU bus. -/
inductive Kind where
  | op | io | mem
  deriving DecidableEq, Repr

/-- One operation request in the model's byte format (log 1): the interface, then the selector and the operands as bytes. -/
structure Request where
  kind  : Kind
  bytes : List Byte
  deriving DecidableEq, Repr

end Sys2Proof
end

