-- ==== Sys2Proof/Machine/Operands.lean ====
section
/-! DEFINITION. Every operand form: the address mask and the region decode (rules R61, R91), the port maps (rules R94, R95), the
address patterns of the opcode table (rule R91), the amount and the window of the shift register (rules R107, R113), the
latch bytes (rule R28), the video bit and the pixel map (rules R108, R182, R183). -/

namespace Sys2Proof

/-- Rule R61: the 14-bit window address; address bits 15 and 14 are ignored. -/
def window (addr : Addr) : Nat := (addr.setWidth 14).toNat

/-- The three regions of the memory image (rule R32). -/
inductive Region where
  | program | working | video
  deriving DecidableEq, Repr

/-- The first window address of a region (rule R10). -/
def Config.base (c : Config) : Region → Nat
  | .program => c.progBase
  | .working => c.workBase
  | .video => c.videoBase

/-- The number of bytes of a region (rule R10). -/
def Config.size (c : Config) : Region → Nat
  | .program => c.progSize
  | .working => c.workSize
  | .video => c.videoSize

/-- Rule R91: the region of a window address, none where it is in no region. -/
def regionOf (c : Config) (a : Nat) : Option Region :=
  if c.progBase ≤ a ∧ a < c.progBase + c.progSize then some .program
  else if c.workBase ≤ a ∧ a < c.workBase + c.workSize then some .working
  else if c.videoBase ≤ a ∧ a < c.videoBase + c.videoSize then some .video
  else none

/-- Rules R66, R67, R69: the region that the whole range `[a, a+n)` lies in, none where the range leaves the region it starts
in (running past `0x3FFF` included) or starts in none. -/
def spanRegion (c : Config) (a n : Nat) : Option Region :=
  match regionOf c a with
  | some r => if a + n ≤ c.base r + c.size r then some r else none
  | none => none

/-- The output operations (rule R94). -/
inductive OutOp where
  | shiftAmount | soundA | shiftData | soundB | watchdog | other
  deriving DecidableEq, Repr

/-- Rule R94: the port number of an output request selects the operation. -/
def selectOut (c : Config) (port : Port) : OutOp :=
  if port = c.portOutShiftAmount then .shiftAmount
  else if port = c.portOutSoundA then .soundA
  else if port = c.portOutShiftData then .shiftData
  else if port = c.portOutSoundB then .soundB
  else if port = c.portOutWatchdog then .watchdog
  else .other

/-- The input operations (rule R95). -/
inductive InOp where
  | sys | p1 | p2 | shift | other
  deriving DecidableEq, Repr

/-- Rule R95: the port number of an input request selects the operation. -/
def selectIn (c : Config) (port : Port) : InOp :=
  if port = c.portInSys then .sys
  else if port = c.portInP1 then .p1
  else if port = c.portInP2 then .p2
  else if port = c.portInShift then .shift
  else .other

/-- The five address patterns of the opcode table (rule R91). -/
inductive MemRow where
  | program | working | video2400 | video2800 | video3000
  deriving DecidableEq, Repr

/-- Rule R91's table: the bit pattern that a CPU address matches, by the masks and matches of the table's rows. -/
def memRow (addr : Addr) : MemRow :=
  if addr &&& 0x2000 = 0 then .program
  else if addr &&& 0x3C00 = 0x2000 then .working
  else if addr &&& 0x3C00 = 0x2400 then .video2400
  else if addr &&& 0x3800 = 0x2800 then .video2800
  else .video3000

/-- Rule R107, R112: the amount is bits 2..0 of the byte, bits 7..3 are ignored. -/
def amountOf (n : Byte) : BitVec 3 := n.setWidth 3

/-- Rule R111: the new register, the fed byte over the old high half. -/
def feedReg (byte : Byte) (reg : BitVec 16) : BitVec 16 := byte ++ reg.extractLsb' 8 8

/-- Rule R113: the eight bits of the register from bit `8 − amount` up. -/
def shiftWindow (reg : BitVec 16) (amount : BitVec 3) : Byte := reg.extractLsb' (8 - amount.toNat) 8

/-- One latch of the three (rule R26). -/
def LatchBytes.get (bs : LatchBytes) : Latch → Byte
  | .sys => bs.sys
  | .p1 => bs.p1
  | .p2 => bs.p2

/-- The three latches with one of them replaced. -/
def LatchBytes.set (bs : LatchBytes) (l : Latch) (b : Byte) : LatchBytes :=
  match l with
  | .sys => { bs with sys := b }
  | .p1 => { bs with p1 := b }
  | .p2 => { bs with p2 := b }

/-- The byte with bit `k` alone set: `1 << k`. -/
def bitByte (k : Fin 8) : Byte := 1 <<< k.val

/-- Rule R237: a free bit is set, a fixed bit rejects the write. -/
def latchWithSet (mask b : Byte) (k : Fin 8) : Byte :=
  if mask.getLsbD k.val then b else b ||| bitByte k

/-- Rule R238: a free bit is cleared, a fixed bit rejects the write. -/
def latchWithClear (mask b : Byte) (k : Fin 8) : Byte :=
  if mask.getLsbD k.val then b else b &&& ~~~(bitByte k)

/-- The number of pixels of a frame (rules R35, R182): one for each video bit. -/
def Config.pixels (c : Config) : Nat := c.fastLen * c.slowLen

/-- Rule R108: the video bit with linear pixel index `p`, in a Video region whose byte at offset `i` is `video i`. -/
def videoBit (video : Nat → Byte) (p : Nat) : Bool := (video (p / 8)).getLsbD (p % 8)

/-- Rules R182, R183: the output pixel index of video pixel `p`: `x = p div F`, `y = F − 1 − p mod F`, `q = y·S + x`. -/
def destPixel (c : Config) (p : Nat) : Nat := (c.fastLen - 1 - p % c.fastLen) * c.slowLen + p / c.fastLen

/-- Rule R186: the inverse of `destPixel`, the video pixel shown at output pixel `q`: `f = F − 1 − y`, `s = x`. -/
def sourcePixel (c : Config) (q : Nat) : Nat := q % c.slowLen * c.fastLen + (c.fastLen - 1 - q / c.slowLen)

/-- The bytes of a pixel in frame order (rule R64(c)). -/
def Pixel.bytes (p : Pixel) : List Byte := [p.r, p.g, p.b, p.a]

/-- A frame as the buffer of bytes it is (rules R35, R60(3)). -/
def Frame.bytes (f : Frame) : List Byte := f.flatMap Pixel.bytes

end Sys2Proof
end

