-- ==== Sys2Proof/WellFormed.lean ====
section
/-! DEFINITION. Which terms of `Instr` are operations of the hardware under a configuration. -/

namespace Sys2Proof

/-- An image's listed offsets rise and lie inside it, and no listed byte is zero: one term for one byte sequence (log 17). -/
abbrev Image.WF (im : Image) : Prop :=
  im.cells.Pairwise (fun x y => x.1 < y.1) ∧ ∀ x ∈ im.cells, x.1 < im.length ∧ x.2 ≠ 0

/-- The frame of a publish has the frame's size (rule R231), and only a part that takes the frame names one. -/
def FrameSource.wf (c : Config) : FrameSource → PublishPart → Bool
  | .fresh, _ => true
  | .given frame, .whole => decide (frame.length = c.pixels)
  | .given frame, .acquire => decide (frame.length = c.pixels)
  | .given _, .finish => false

/-- A well-formed operation: `OUT other` and `IN other` name a port outside the configured ones (rules R161, R168), a region
row's address has the row's pattern (rule R91), a batch has one engine answer for each of its steps (rule R213), a given
frame has the frame's size (rule R231). -/
def Instr.wf (c : Config) : Instr → Bool
  | .outShiftAmount _ => true
  | .outSoundBankA _ => true
  | .outShiftData _ => true
  | .outSoundBankB _ => true
  | .outWatchdog _ => true
  | .outOther port _ => decide (selectOut c port = .other)
  | .inSystem => true
  | .inPlayer1 => true
  | .inPlayer2 => true
  | .inShiftResult => true
  | .inOther port => decide (selectIn c port = .other)
  | .regionProgram addr _ => decide (memRow addr = .program)
  | .regionWorking addr _ => decide (memRow addr = .working)
  | .regionVideo2400 addr _ => decide (memRow addr = .video2400)
  | .regionVideo2800 addr _ => decide (memRow addr = .video2800)
  | .regionVideo3000 addr _ => decide (memRow addr = .video3000)
  | .srFeed _ => true
  | .srSetAmount _ => true
  | .srRead => true
  | .readByte _ => true
  | .writeByte _ _ => true
  | .readBytes _ _ => true
  | .writeBytes _ _ => true
  | .loadProgram image => decide image.WF
  | .convert => true
  | .schedIteration _ => true
  | .schedBatch answers => decide (answers.length = c.batchSteps)
  | .publish source part => source.wf c part
  | .readFrame _ => true
  | .latchSet _ _ => true
  | .latchClear _ _ => true
  | .runClear => true

end Sys2Proof
end

