-- ==== Sys2Proof/Decode.lean ====
section
/-! DEFINITION. The decoder from the bytes of a request to an operation, total and rejecting by name, and after it the encoder.
The selectors are the spec's: the 9-bit word of rule R93 under the port maps of rules R94 and R95, the 16-bit address under
the patterns of rule R91, the operation ids of rule R105. The operand bytes after a selector are the model's own format
(DESIGN CHOICE, log 1): the spec gives operands no encoding. So is the selector of a port above 255, for which rule R93's word
has no bits (DESIGN CHOICE, log 21). A 16-bit value lies low byte first. -/

namespace Sys2Proof

/-- Why the bytes of a request are no operation. -/
inductive Reject where
  | truncated         -- the bytes end inside the selector or an operand
  | noSuchOperation   -- an id that rule R105 does not list
  | reservedSelector  -- an I/O selector with a bit above the direction and the mark of a wide port
  | reservedOperand   -- a tag, latch, bit number or port number part with no meaning
  | trailingBytes     -- a byte other than zero after the last operand
  deriving DecidableEq, Repr

/-- The outcome of reading one item from the front of a byte list: the item and the bytes after it. -/
abbrev Parsed (α : Type) := Except Reject (α × List Byte)

/-- Read one item and go on with the bytes after it. -/
def Parsed.andThen {α β : Type} (p : Parsed α) (f : α → List Byte → Parsed β) : Parsed β :=
  match p with
  | .error e => .error e
  | .ok (x, rest) => f x rest

/-! ### Reading operands -/

/-- One byte. -/
def parseByte : List Byte → Parsed Byte
  | [] => .error .truncated
  | b :: rest => .ok (b, rest)

/-- A 16-bit value, low byte first. -/
def parseAddr (bs : List Byte) : Parsed Addr :=
  (parseByte bs).andThen fun lo bs => (parseByte bs).andThen fun hi bs => .ok (hi ++ lo, bs)

/-- A number of any size: seven bits a byte, least significant first, bit 7 set on every byte but the last. -/
def parseNat : List Byte → Parsed Nat
  | [] => .error .truncated
  | b :: rest =>
    if b.toNat < 128 then .ok (b.toNat, rest)
    else (parseNat rest).andThen fun n bs => .ok (b.toNat - 128 + 128 * n, bs)

/-- `n` items, one after another. -/
def parseMany {α : Type} (item : List Byte → Parsed α) : Nat → List Byte → Parsed (List α)
  | 0, bs => .ok ([], bs)
  | n + 1, bs => (item bs).andThen fun x bs => (parseMany item n bs).andThen fun xs bs => .ok (x :: xs, bs)

/-- A count and that many items. -/
def parseList {α : Type} (item : List Byte → Parsed α) (bs : List Byte) : Parsed (List α) :=
  (parseNat bs).andThen fun n bs => parseMany item n bs

/-- The access of a region row: 0 a read, 1 a write and its byte. -/
def parseAccess (bs : List Byte) : Parsed Access :=
  (parseByte bs).andThen fun tag bs =>
    match tag.toNat with
    | 0 => .ok (.read, bs)
    | 1 => (parseByte bs).andThen fun b bs => .ok (.write b, bs)
    | _ => .error .reservedOperand

/-- One memory operation of the engine: a tag and its operands. -/
def parseMemOp (bs : List Byte) : Parsed MemOp :=
  (parseByte bs).andThen fun tag bs =>
    match tag.toNat with
    | 0 => (parseAddr bs).andThen fun a bs => .ok (.readByte a, bs)
    | 1 => (parseAddr bs).andThen fun a bs => (parseByte bs).andThen fun b bs => .ok (.writeByte a b, bs)
    | 2 => (parseAddr bs).andThen fun a bs => (parseNat bs).andThen fun n bs => .ok (.readBytes a n, bs)
    | 3 => (parseAddr bs).andThen fun a bs => (parseList parseByte bs).andThen fun v bs => .ok (.writeBytes a v, bs)
    | _ => .error .reservedOperand

/-- The engine's I/O request: 0 none, 1 an output with its port and byte, 2 an input with its port. -/
def parseIORequest (bs : List Byte) : Parsed IORequest :=
  (parseByte bs).andThen fun tag bs =>
    match tag.toNat with
    | 0 => .ok (.idle, bs)
    | 1 => (parseNat bs).andThen fun p bs => (parseByte bs).andThen fun b bs => .ok (.output p b, bs)
    | 2 => (parseNat bs).andThen fun p bs => .ok (.input p, bs)
    | _ => .error .reservedOperand

/-- One answer of the engine: its cycles, its memory operations, its request. -/
def parseAnswer (bs : List Byte) : Parsed EngineAnswer :=
  (parseNat bs).andThen fun n bs => (parseList parseMemOp bs).andThen fun ops bs =>
    (parseIORequest bs).andThen fun q bs => .ok (⟨n, ops, q⟩, bs)

/-- One listed byte of an image. -/
def parseCell (bs : List Byte) : Parsed (Nat × Byte) :=
  (parseNat bs).andThen fun k bs => (parseByte bs).andThen fun b bs => .ok ((k, b), bs)

/-- A program image: 0 for the length PROG_SIZE or one more than another length, then the listed bytes. -/
def parseImage (c : Config) (bs : List Byte) : Parsed Image :=
  (parseNat bs).andThen fun len bs => (parseList parseCell bs).andThen fun cells bs =>
    .ok (⟨if len = 0 then c.progSize else len - 1, cells⟩, bs)

/-- A pixel: red, green, blue, alpha (rule R64(c)). -/
def parsePixel (bs : List Byte) : Parsed Pixel :=
  (parseByte bs).andThen fun r bs => (parseByte bs).andThen fun g bs =>
    (parseByte bs).andThen fun b bs => (parseByte bs).andThen fun a bs => .ok (⟨r, g, b, a⟩, bs)

/-- The frame of a publish: 0 the fresh conversion, 1 a count of pixels and the pixels. -/
def parseSource (bs : List Byte) : Parsed FrameSource :=
  (parseByte bs).andThen fun tag bs =>
    match tag.toNat with
    | 0 => .ok (.fresh, bs)
    | 1 => (parseList parsePixel bs).andThen fun f bs => .ok (.given f, bs)
    | _ => .error .reservedOperand

/-- The part of a publish. -/
def parsePublishPart (bs : List Byte) : Parsed PublishPart :=
  (parseByte bs).andThen fun tag bs =>
    match tag.toNat with
    | 0 => .ok (.whole, bs)
    | 1 => .ok (.acquire, bs)
    | 2 => .ok (.finish, bs)
    | _ => .error .reservedOperand

/-- The part of a `read_frame`. -/
def parseReadPart (bs : List Byte) : Parsed ReadPart :=
  (parseByte bs).andThen fun tag bs =>
    match tag.toNat with
    | 0 => .ok (.complete, bs)
    | 1 => .ok (.acquire, bs)
    | 2 => .ok (.present, bs)
    | _ => .error .reservedOperand

/-- An input latch: 0 SYS, 1 P1, 2 P2. -/
def parseLatch (bs : List Byte) : Parsed Latch :=
  (parseByte bs).andThen fun tag bs =>
    match tag.toNat with
    | 0 => .ok (.sys, bs)
    | 1 => .ok (.p1, bs)
    | 2 => .ok (.p2, bs)
    | _ => .error .reservedOperand

/-- A bit number `0..7`. -/
def parseBit (bs : List Byte) : Parsed (Fin 8) :=
  (parseByte bs).andThen fun b bs =>
    if h : b.toNat < 8 then .ok (⟨b.toNat, h⟩, bs) else .error .reservedOperand

/-! ### Selectors -/

/-- The direction of an I/O request (rule R93). -/
inductive Direction where
  | input | output
  deriving DecidableEq, Repr

/-- Rule R94: the output operation that a port number selects. -/
def outInstr (c : Config) (port : Port) (byte : Byte) : Instr :=
  match selectOut c port with
  | .shiftAmount => .outShiftAmount byte
  | .soundA => .outSoundBankA byte
  | .shiftData => .outShiftData byte
  | .soundB => .outSoundBankB byte
  | .watchdog => .outWatchdog byte
  | .other => .outOther port byte

/-- Rule R95: the input operation that a port number selects. -/
def inInstr (c : Config) (port : Port) : Instr :=
  match selectIn c port with
  | .sys => .inSystem
  | .p1 => .inPlayer1
  | .p2 => .inPlayer2
  | .shift => .inShiftResult
  | .other => .inOther port

/-- Rule R91: the row that an address matches. -/
def memInstr (addr : Addr) (access : Access) : Instr :=
  match memRow addr with
  | .program => .regionProgram addr access
  | .working => .regionWorking addr access
  | .video2400 => .regionVideo2400 addr access
  | .video2800 => .regionVideo2800 addr access
  | .video3000 => .regionVideo3000 addr access

/-- The port number after a selector's two bytes: its low byte alone where it is `0..255` (rule R93's word), else with the rest of
the number, which is not zero (DESIGN CHOICE, log 21). -/
def parsePort (low : Byte) (wide : Bool) (bs : List Byte) : Parsed Port :=
  if wide then
    (parseNat bs).andThen fun high bs =>
      if high = 0 then .error .reservedOperand else .ok (256 * high + low.toNat, bs)
  else .ok (low.toNat, bs)

/-- The selector of an I/O request: the port's low byte, then a byte whose bit 0 is the direction `d` of rule R93 and whose bit 1
says that the rest of a wide port number follows. -/
def parseSelector (bs : List Byte) : Parsed (Direction × Port) :=
  (parseByte bs).andThen fun low bs => (parseByte bs).andThen fun tag bs =>
    match tag.toNat with
    | 0 => (parsePort low false bs).andThen fun p bs => .ok ((.input, p), bs)
    | 1 => (parsePort low false bs).andThen fun p bs => .ok ((.output, p), bs)
    | 2 => (parsePort low true bs).andThen fun p bs => .ok ((.input, p), bs)
    | 3 => (parsePort low true bs).andThen fun p bs => .ok ((.output, p), bs)
    | _ => .error .reservedSelector

/-- Rule R93: the triple of a direction, a port number and, for an output, a data byte. -/
def parseIo (c : Config) (bs : List Byte) : Parsed Instr :=
  (parseSelector bs).andThen fun sel bs =>
    match sel.1 with
    | .input => .ok (inInstr c sel.2, bs)
    | .output => (parseByte bs).andThen fun byte bs => .ok (outInstr c sel.2 byte, bs)

/-- Rule R91: a 16-bit CPU address and what is done there. -/
def parseMem (bs : List Byte) : Parsed Instr :=
  (parseAddr bs).andThen fun a bs => (parseAccess bs).andThen fun x bs => .ok (memInstr a x, bs)

/-- Rule R105: the operation with a given id, and its operands. -/
def parseOpBody (c : Config) (id : Nat) (bs : List Byte) : Parsed Instr :=
  match id with
  | 0x01 => (parseByte bs).andThen fun b bs => .ok (.srFeed b, bs)
  | 0x02 => (parseByte bs).andThen fun n bs => .ok (.srSetAmount n, bs)
  | 0x03 => .ok (.srRead, bs)
  | 0x10 => (parseAddr bs).andThen fun a bs => .ok (.readByte a, bs)
  | 0x11 => (parseAddr bs).andThen fun a bs => (parseByte bs).andThen fun b bs => .ok (.writeByte a b, bs)
  | 0x12 => (parseAddr bs).andThen fun a bs => (parseNat bs).andThen fun n bs => .ok (.readBytes a n, bs)
  | 0x13 => (parseAddr bs).andThen fun a bs => (parseList parseByte bs).andThen fun v bs => .ok (.writeBytes a v, bs)
  | 0x14 => (parseImage c bs).andThen fun im bs => .ok (.loadProgram im, bs)
  | 0x20 => .ok (.convert, bs)
  | 0x21 => (parseAnswer bs).andThen fun x bs => .ok (.schedIteration x, bs)
  | 0x22 => (parseMany parseAnswer c.batchSteps bs).andThen fun xs bs => .ok (.schedBatch xs, bs)
  | 0x30 => (parseSource bs).andThen fun f bs => (parsePublishPart bs).andThen fun p bs => .ok (.publish f p, bs)
  | 0x31 => (parseReadPart bs).andThen fun p bs => .ok (.readFrame p, bs)
  | 0x32 => (parseLatch bs).andThen fun l bs => (parseBit bs).andThen fun k bs => .ok (.latchSet l k, bs)
  | 0x33 => (parseLatch bs).andThen fun l bs => (parseBit bs).andThen fun k bs => .ok (.latchClear l k, bs)
  | 0x34 => .ok (.runClear, bs)
  | _ => .error .noSuchOperation

/-- An operation id, then what it selects. -/
def parseOp (c : Config) (bs : List Byte) : Parsed Instr :=
  (parseByte bs).andThen fun id bs => parseOpBody c id.toNat bs

/-- The whole request was read: what is left is padding of zeros. -/
def finishParse (p : Parsed Instr) : Except Reject Instr :=
  match p with
  | .error e => .error e
  | .ok (i, rest) => if rest.all (· == 0) then .ok i else .error .trailingBytes

/-- The decoder: the operation a request asks for under a configuration, or why it asks for none. -/
def decode (c : Config) (r : Request) : Except Reject Instr :=
  match r.kind with
  | .op => finishParse (parseOp c r.bytes)
  | .io => finishParse (parseIo c r.bytes)
  | .mem => finishParse (parseMem r.bytes)

/-! ### The opcode table's words -/

/-- The low `n` bytes of a word, least significant first. -/
def wordBytes (n w : Nat) : List Byte := (List.range n).map fun k => BitVec.ofNat 8 (w >>> (8 * k))

/-- The request that a word of spec/opcode_table.json stands for, its operand bytes zero. A row of 8 bits is an operation id;
a word of 16 bits is a word of rule R93 where it fits nine bits and a CPU address otherwise (DESIGN CHOICE, log 25: the table
gives both formats the same words). -/
def tableRequest (c : Config) (nbits w : Nat) : Request :=
  ⟨if nbits ≤ 8 then .op else if w < 0x200 then .io else .mem,
    wordBytes ((nbits + 7) / 8) w ++ List.replicate (8 + 3 * c.batchSteps) 0⟩

/-- What the decoder reads from a word of spec/opcode_table.json under the recommended configuration. -/
def decodeTableWord (nbits w : Nat) : Option Instr :=
  match decode Config.recommended (tableRequest Config.recommended nbits w) with
  | .ok i => some i
  | .error _ => none

/-! ### The encoder -/

/-- A 16-bit value, low byte first. -/
def encodeAddr (a : Addr) : List Byte := [a.setWidth 8, a.extractLsb' 8 8]

/-- `encodeNat` with a bound on its length. -/
def encodeNatFuel : Nat → Nat → List Byte
  | 0, n => [BitVec.ofNat 8 n]
  | fuel + 1, n =>
    if n < 128 then [BitVec.ofNat 8 n] else BitVec.ofNat 8 (128 + n % 128) :: encodeNatFuel fuel (n / 128)

/-- A number, seven bits a byte, least significant first. -/
def encodeNat (n : Nat) : List Byte := encodeNatFuel n n

/-- A count and the items. -/
def encodeList {α : Type} (item : α → List Byte) (xs : List α) : List Byte :=
  encodeNat xs.length ++ xs.flatMap item

/-- The bytes of an access. -/
def encodeAccess : Access → List Byte
  | .read => [0]
  | .write b => [1, b]

/-- The bytes of a memory operation. -/
def encodeMemOp : MemOp → List Byte
  | .readByte a => 0 :: encodeAddr a
  | .writeByte a b => 1 :: (encodeAddr a ++ [b])
  | .readBytes a n => 2 :: (encodeAddr a ++ encodeNat n)
  | .writeBytes a v => 3 :: (encodeAddr a ++ encodeList (fun b => [b]) v)

/-- The bytes of an I/O request. -/
def encodeIORequest : IORequest → List Byte
  | .idle => [0]
  | .output p b => 1 :: (encodeNat p ++ [b])
  | .input p => 2 :: encodeNat p

/-- The bytes of an engine answer. -/
def encodeAnswer (x : EngineAnswer) : List Byte :=
  encodeNat x.cycles ++ (encodeList encodeMemOp x.memOps ++ encodeIORequest x.request)

/-- The bytes of an image. -/
def encodeImage (c : Config) (im : Image) : List Byte :=
  encodeNat (if im.length = c.progSize then 0 else im.length + 1) ++
    encodeList (fun x => encodeNat x.1 ++ [x.2]) im.cells

/-- The bytes of a publish's frame. -/
def encodeSource : FrameSource → List Byte
  | .fresh => [0]
  | .given f => 1 :: encodeList Pixel.bytes f

/-- The byte of a publish's part. -/
def encodePublishPart : PublishPart → Byte
  | .whole => 0
  | .acquire => 1
  | .finish => 2

/-- The byte of a read's part. -/
def encodeReadPart : ReadPart → Byte
  | .complete => 0
  | .acquire => 1
  | .present => 2

/-- The byte of a latch. -/
def encodeLatch : Latch → Byte
  | .sys => 0
  | .p1 => 1
  | .p2 => 2

/-- The byte of a bit number. -/
def encodeBit (k : Fin 8) : Byte := BitVec.ofNat 8 k.val

/-- The direction bit of rule R93's word. -/
def Direction.bit : Direction → Nat
  | .input => 0
  | .output => 1

/-- The selector of an I/O request: rule R93's word for the ports `0..255`, its extension for a wider port (log 21). -/
def encodeSelector (d : Direction) (port : Nat) : List Byte :=
  if port < 256 then [BitVec.ofNat 8 port, BitVec.ofNat 8 d.bit]
  else BitVec.ofNat 8 port :: BitVec.ofNat 8 (d.bit + 2) :: encodeNat (port / 256)

/-- An output request (rule R93, `d = 1`). -/
def outRequest (port : Port) (byte : Byte) : Request := ⟨.io, encodeSelector .output port ++ [byte]⟩

/-- An input request (rule R93, `d = 0`). -/
def inRequest (port : Port) : Request := ⟨.io, encodeSelector .input port⟩

/-- A memory access at a CPU address (rule R91). -/
def memRequest (a : Addr) (x : Access) : Request := ⟨.mem, encodeAddr a ++ encodeAccess x⟩

/-- The encoder: the request that asks for an operation under a configuration. -/
def encode (c : Config) : Instr → Request
  | .outShiftAmount b => outRequest c.portOutShiftAmount b
  | .outSoundBankA b => outRequest c.portOutSoundA b
  | .outShiftData b => outRequest c.portOutShiftData b
  | .outSoundBankB b => outRequest c.portOutSoundB b
  | .outWatchdog b => outRequest c.portOutWatchdog b
  | .outOther p b => outRequest p b
  | .inSystem => inRequest c.portInSys
  | .inPlayer1 => inRequest c.portInP1
  | .inPlayer2 => inRequest c.portInP2
  | .inShiftResult => inRequest c.portInShift
  | .inOther p => inRequest p
  | .regionProgram a x => memRequest a x
  | .regionWorking a x => memRequest a x
  | .regionVideo2400 a x => memRequest a x
  | .regionVideo2800 a x => memRequest a x
  | .regionVideo3000 a x => memRequest a x
  | .srFeed b => ⟨.op, [0x01, b]⟩
  | .srSetAmount n => ⟨.op, [0x02, n]⟩
  | .srRead => ⟨.op, [0x03]⟩
  | .readByte a => ⟨.op, 0x10 :: encodeAddr a⟩
  | .writeByte a b => ⟨.op, 0x11 :: (encodeAddr a ++ [b])⟩
  | .readBytes a n => ⟨.op, 0x12 :: (encodeAddr a ++ encodeNat n)⟩
  | .writeBytes a v => ⟨.op, 0x13 :: (encodeAddr a ++ encodeList (fun b => [b]) v)⟩
  | .loadProgram im => ⟨.op, 0x14 :: encodeImage c im⟩
  | .convert => ⟨.op, [0x20]⟩
  | .schedIteration x => ⟨.op, 0x21 :: encodeAnswer x⟩
  | .schedBatch xs => ⟨.op, 0x22 :: xs.flatMap encodeAnswer⟩
  | .publish f p => ⟨.op, 0x30 :: (encodeSource f ++ [encodePublishPart p])⟩
  | .readFrame p => ⟨.op, [0x31, encodeReadPart p]⟩
  | .latchSet l k => ⟨.op, [0x32, encodeLatch l, encodeBit k]⟩
  | .latchClear l k => ⟨.op, [0x33, encodeLatch l, encodeBit k]⟩
  | .runClear => ⟨.op, [0x34]⟩

end Sys2Proof
end

