-- ==== Sys2Proof/Machine/State.lean ====
section
/-! DEFINITION. The state of the machine as plain data: every piece of state of rule R20 (with rule R41's reset values), and the
model's own fields, which the spec does not list (INVENTORY.md, State). -/

namespace Sys2Proof.Machine

/-- Memory (rule R32): the cells of the window by window address, addresses strictly rising, no cell equal to what an
unlisted address reads as (`Memory.wf`). -/
abbrev Memory := List Host.Cell

/-- The sound events (rule R102). -/
inductive Sound where
  | ufoLoopStart | ufoLoopStop | shot | flash | invaderDie | extendedPlay
  | fleetStep1 | fleetStep2 | fleetStep3 | fleetStep4 | ufoHit
  deriving DecidableEq, Repr

/-- The frame-mirror lock (rule R36). The frame is the operand of the publish that holds the lock: rule R231 writes it into the
mirror after the acquire (log 22). -/
inductive Lock where
  | free
  | heldByReader
  | heldByWriter (frame : Frame)
  deriving DecidableEq, Repr

/-- The observable outputs (rule R16), and what an operation returns to the agent that asked for it. -/
inductive Output where
  | writeInput (value : Byte)              -- the byte an `IN` gives the engine (rule R162)
  | memBytes (bytes : List Byte)           -- the bytes of a memory read (rules R131, R134)
  | shiftResult (value : Byte)             -- the byte of a direct `SR.read` (rule R113)
  | sound (event : Sound)                  -- a sound event (rule R102)
  | interrupt (vector : Nat) (time : Nat)  -- `CPU.interrupt(vector)` (a number: log 32) and the emulated time (rules R16, R205)
  | converted (frame : Frame)              -- the result of a direct `convert` (rule R182)
  | published (frame : Frame)              -- a publish that wrote the mirror (rule R231)
  | publishSkipped                         -- a publish that found the lock held: MirrorContention (rules R231, R264)
  | frameRead (frame : Frame)              -- the result of a `read_frame` (rule R232)
  | presented (frame : Frame)              -- `HOST.present(frame)` (rules R103, R241; log 31)
  | redraw                                 -- `HOST.request_redraw()` (rule R241)
  | audioUnavailable                       -- the log record of the degraded start (rules R262, R270)
  deriving DecidableEq, Repr

/-- The state (rules R20, R41). -/
structure State where
  /-- Configuration (rules R10, R17), written by no operation. -/
  cfg : Config
  /-- `SR.reg` (rule R23). -/
  srReg : BitVec 16
  /-- `SR.amount` (rule R24). -/
  srAmount : BitVec 3
  /-- `MEM_PROG`, `MEM_WORK`, `MEM_VIDEO` (rule R32) at their window addresses. -/
  mem : Memory
  /-- `IN_LATCH` (rule R26). -/
  inLatch : LatchBytes
  /-- `IO.prev_a` (rule R29). -/
  prevA : Byte
  /-- `IO.prev_b` (rule R30). -/
  prevB : Byte
  /-- `CLK.emu_clock` (rule R33), below `2 ^ CLOCK_BITS`. -/
  emuClock : Nat
  /-- `CLK.next_screen_interrupt_time` (rule R34). -/
  nextScreen : Nat
  /-- `CLK.next_display_time` (rule R34). -/
  nextDisplay : Nat
  /-- `SCH.batch_steps_done` (rule R39). -/
  batchStepsDone : Nat
  /-- `SCH.batch_ns` (rule R39). -/
  batchNs : Nat
  /-- `BR.mirror` (rule R36). -/
  mirror : Frame
  /-- `BR.lock` (rule R36). -/
  lock : Lock
  /-- The model's own: the presentation thread waits at line 1 of `read_frame` (rule R232; log 22). -/
  readerWaiting : Bool
  /-- The model's own: the result of the last `read_frame`, which the presentation thread has and may present (rules R232, R241;
  log 31); none before the first. -/
  lastRead : Option Frame
  /-- `BR.run` (rule R37). -/
  run : Bool
  /-- The model's own: no further program load is possible (rule R136; log 17). -/
  programSealed : Bool
  /-- The model's own: the observable outputs so far, oldest first (rules R13, R16; log 26). -/
  trace : List Output
  /-- The model's own: the operation requests not yet performed, oldest first (log 1, log 24). -/
  requests : List Request
  /-- The model's own: how many free values have been drawn (log 27). -/
  freeCount : Nat
  deriving DecidableEq, Repr

/-- What stops the machine as the spec describes it. Closed: one condition. -/
inductive Fault where
  /-- `LoadFailure` (rule R261), raised by `load_program` and by the reset procedure for an image whose length is not
  PROG_SIZE, with that length. The spec's own stop ("fatal at startup"): safe. -/
  | loadFailure (length : Nat)
  deriving DecidableEq, Repr

/-- What the machine gives no meaning to. Closed. -/
inductive Refusal where
  /-- Raised by `exec` for an operation without a meaning. Safe. No arm does. -/
  | notModelled (mnemonic : String)
  /-- Raised by `step` for a request whose bytes are no operation. Safe. -/
  | undecodable (why : Reject)
  /-- Raised by `step` for a request that decodes to an ill-formed operation. Safe. -/
  | illFormed
  /-- Raised by `read_bytes`, `write_bytes` and an engine step that performs one, for a range that leaves the region it
  starts in: rule R69 has the model refuse it. Safe. -/
  | bulkCrossesRegion
  /-- Raised by `load_program` once the program store is closed: rule R136, "There is no second load." Safe. -/
  | secondLoad
  deriving DecidableEq, Repr

/-- The outcome of a step or of an operation. -/
abbrev Result := Host.Outcome State Fault Refusal

/-- Rules R41 and R281: the state after the reset procedure under a configuration, before an image is loaded; `audio` says
that the audio backend is available (rule R262). Memory lists nothing: Working and Video are zero, and Program is the
all-zero image (log 3). -/
def State.resetWith (c : Config) (audio : Bool) : State where
  cfg := c
  srReg := 0
  srAmount := 0
  mem := []
  inLatch := c.fixedValue
  prevA := 0
  prevB := 0
  emuClock := 0
  nextScreen := c.framePeriodNs - c.midOffsetNs
  nextDisplay := c.framePeriodNs
  batchStepsDone := 0
  batchNs := 0
  mirror := (List.range c.pixels).map Config.freeMirrorPixel
  lock := .free
  readerWaiting := false
  lastRead := none
  run := audio
  programSealed := false
  trace := if audio then [] else [.audioUnavailable]
  requests := []
  freeCount := 0

/-- The machine right after reset: the recommended configuration, the audio backend available (log 2, log 8). -/
def State.reset : State := State.resetWith Config.recommended true

end Sys2Proof.Machine
end

