-- ==== Sys2Proof/Machine/Flags.lean ====
section
/-! DEFINITION. The hardware has no status flags (rule R25). What it has in their place is computed here: the edges of the sound
latches and the events of one write to a sound port (rules R97, R98, R154 to R156, R169). -/

namespace Sys2Proof.Machine

/-- The bits that rose: set in this write, clear in the previous one (rule R154). -/
def rise (prev byte : Byte) : Byte := byte &&& ~~~prev

/-- The bits that fell: clear in this write, set in the previous one (rule R154). -/
def fall (prev byte : Byte) : Byte := prev &&& ~~~byte

/-- The events of bank A for bit position `k`, in the order of rule R154's lines. -/
def soundAEventsAt (c : Config) (prev byte : Byte) (k : Nat) : List Sound :=
  (if k = c.bitUfoLoop.val ∧ (rise prev byte).getLsbD k then [.ufoLoopStart] else []) ++
  (if k = c.bitUfoLoop.val ∧ (fall prev byte).getLsbD k then [.ufoLoopStop] else []) ++
  (if k = c.bitShot.val ∧ (rise prev byte).getLsbD k then [.shot] else []) ++
  (if k = c.bitFlash.val ∧ (rise prev byte).getLsbD k then [.flash] else []) ++
  (if k = c.bitInvaderDie.val ∧ (rise prev byte).getLsbD k then [.invaderDie] else []) ++
  (if k = c.bitExtendedPlay.val ∧ (rise prev byte).getLsbD k ∧ c.extendedPlayEvent then [.extendedPlay] else [])

/-- The events of one write to bank A, by ascending bit position (rules R154, R169; log 12). -/
def soundAEvents (c : Config) (prev byte : Byte) : List Sound :=
  (List.range 8).flatMap (soundAEventsAt c prev byte)

/-- The events of bank B for bit position `k`, in the order of rule R155's lines. -/
def soundBEventsAt (c : Config) (prev byte : Byte) (k : Nat) : List Sound :=
  (if k = c.bitFleet1.val ∧ (rise prev byte).getLsbD k then [.fleetStep1] else []) ++
  (if k = c.bitFleet2.val ∧ (rise prev byte).getLsbD k then [.fleetStep2] else []) ++
  (if k = c.bitFleet3.val ∧ (rise prev byte).getLsbD k then [.fleetStep3] else []) ++
  (if k = c.bitFleet4.val ∧ (rise prev byte).getLsbD k then [.fleetStep4] else []) ++
  (if k = c.bitUfoHit.val ∧ (rise prev byte).getLsbD k then [.ufoHit] else [])

/-- The events of one write to bank B, by ascending bit position (rules R155, R169; log 12). -/
def soundBEvents (c : Config) (prev byte : Byte) : List Sound :=
  (List.range 8).flatMap (soundBEventsAt c prev byte)

end Sys2Proof.Machine
end

