-- ==== Sys2Proof/Machine/Ops.lean ====
section
/-! DEFINITION. The named operations over the state: one update for each field, the memory primitives (rules R66, R67), the
shift register (rules R111 to R113), the port operations as state changes (rules R152 to R168), the raising of an interrupt
into the engine (rule R205), the converter (rule R182), the frame mirror (rules R231, R232), the latches (rules R237, R238).

There is no exception for the hardware to take (rule R250) and no return from one (rule R255): `State.raiseInterrupt` is all
of the hardware's side of a trap (rule R254: it saves nothing and changes no mode). -/

namespace Sys2Proof.Machine

/-! ### One update for each field -/

/-- Append outputs to the trace: the `emit` of rule R13. -/
def State.emit (s : State) (os : List Output) : State := { s with trace := s.trace ++ os }
/-- Write `SR.reg`. -/
def State.setReg (s : State) (r : BitVec 16) : State := { s with srReg := r }
/-- Write `SR.amount`. -/
def State.setAmount (s : State) (n : BitVec 3) : State := { s with srAmount := n }
/-- Write the memory image. -/
def State.setMem (s : State) (m : Memory) : State := { s with mem := m }
/-- Write the input latches. -/
def State.setLatches (s : State) (l : LatchBytes) : State := { s with inLatch := l }
/-- Write `IO.prev_a`. -/
def State.setPrevA (s : State) (b : Byte) : State := { s with prevA := b }
/-- Write `IO.prev_b`. -/
def State.setPrevB (s : State) (b : Byte) : State := { s with prevB := b }
/-- Write `CLK.emu_clock`. -/
def State.setClock (s : State) (t : Nat) : State := { s with emuClock := t }
/-- Write `CLK.next_screen_interrupt_time`. -/
def State.setScreenMark (s : State) (t : Nat) : State := { s with nextScreen := t }
/-- Write `CLK.next_display_time`. -/
def State.setDisplayMark (s : State) (t : Nat) : State := { s with nextDisplay := t }
/-- Write `SCH.batch_steps_done` and `SCH.batch_ns`. -/
def State.setBatch (s : State) (done ns : Nat) : State := { s with batchStepsDone := done, batchNs := ns }
/-- Write `BR.mirror`. -/
def State.setMirror (s : State) (f : Frame) : State := { s with mirror := f }
/-- Write `BR.lock`. -/
def State.setLock (s : State) (l : Lock) : State := { s with lock := l }
/-- Write the reader's waiting bit. -/
def State.setWaiting (s : State) (w : Bool) : State := { s with readerWaiting := w }
/-- Write the result of the last read. -/
def State.setLastRead (s : State) (f : Option Frame) : State := { s with lastRead := f }
/-- Write `BR.run`. -/
def State.setRun (s : State) (r : Bool) : State := { s with run := r }
/-- Close the program store (rule R133). -/
def State.seal (s : State) : State := { s with programSealed := true }
/-- Write the queue of requests. -/
def State.setRequests (s : State) (q : List Request) : State := { s with requests := q }
/-- Count one free value as drawn. -/
def State.draw (s : State) : State := { s with freeCount := s.freeCount + 1 }

/-! ### Memory -/

/-- What a cell that is not listed reads as: Working and Video are zero-initialized (rule R41), and a window address in no
region reads zero (rule R62). For the Program region it is the all-zero image (log 3). -/
def Memory.unlisted : Byte := 0

/-- The canonical form: addresses strictly rising, no listed cell equal to an unlisted one. -/
abbrev Memory.wf (m : Memory) : Prop :=
  m.Pairwise (fun x y => x.1 < y.1) ∧ ∀ x ∈ m, x.2 ≠ Memory.unlisted

/-- The byte at a window address. -/
def Memory.read (m : Memory) (a : Nat) : Byte :=
  match m with
  | [] => Memory.unlisted
  | (k, b) :: rest => if k = a then b else Memory.read rest a

/-- Write one cell and keep the canonical form. -/
def Memory.write (m : Memory) (a : Nat) (v : Byte) : Memory :=
  match m with
  | [] => if v = Memory.unlisted then [] else [(a, v)]
  | (k, b) :: rest =>
    if a < k then (if v = Memory.unlisted then (k, b) :: rest else (a, v) :: (k, b) :: rest)
    else if a = k then (if v = Memory.unlisted then rest else (a, v) :: rest)
    else (k, b) :: Memory.write rest a v

/-- Write bytes at ascending addresses (rule R135). -/
def Memory.writeList (m : Memory) (a : Nat) : List Byte → Memory
  | [] => m
  | v :: vs => Memory.writeList (m.write a v) (a + 1) vs

/-- The bytes at `n` ascending addresses (rule R134). -/
def Memory.readList (m : Memory) (a n : Nat) : List Byte := (List.range n).map fun k => m.read (a + k)

/-- Rule R131: one byte at a CPU address. -/
def readByteAt (c : Config) (m : Memory) (addr : Addr) : Byte :=
  match regionOf c (window addr) with
  | some _ => m.read (window addr)
  | none => 0x00

/-- Rules R132, R133, R137: one byte written at a CPU address; a write to Program or to no region is discarded (log 16). -/
def writeByteAt (c : Config) (m : Memory) (addr : Addr) (v : Byte) : Memory :=
  match regionOf c (window addr) with
  | some .program => m
  | some .working => m.write (window addr) v
  | some .video => m.write (window addr) v
  | none => m

/-- Rule R66: `MemRead(addr, n)`; none where the result is undefined (rule R69; log 15). -/
def memRead (c : Config) (m : Memory) (addr : Addr) (n : Nat) : Option (List Byte) :=
  if n = 0 then some []
  else match spanRegion c (window addr) n with
    | some _ => some (m.readList (window addr) n)
    | none => if n = 1 ∧ regionOf c (window addr) = none then some [0x00] else none

/-- Rule R67: `MemWrite(addr, n, v)`; none where the effect is undefined (rule R69; log 15). -/
def memWrite (c : Config) (m : Memory) (addr : Addr) (v : List Byte) : Option Memory :=
  if v.length = 0 then some m
  else match spanRegion c (window addr) v.length with
    | some .program => some m
    | some .working => some (m.writeList (window addr) v)
    | some .video => some (m.writeList (window addr) v)
    | none => if v.length = 1 ∧ regionOf c (window addr) = none then some m else none

/-- Rule R136: the memory after a load, the image in the Program region and zeros everywhere else. -/
def loadedMemory (c : Config) (im : Image) : Memory :=
  im.cells.foldl (fun m x => if x.1 < c.progSize then m.write (c.progBase + x.1) x.2 else m) []

/-- The byte at Video offset `i` (rule R138: stored raw). -/
def State.videoByte (s : State) (i : Nat) : Byte := s.mem.read (s.cfg.videoBase + i)

/-! ### Shift register -/

/-- Rule R111: `feed`. -/
def State.feed (s : State) (byte : Byte) : State := s.setReg (feedReg byte s.srReg)

/-- Rule R112: `set_amount`. -/
def State.setAmountByte (s : State) (n : Byte) : State := s.setAmount (amountOf n)

/-- Rule R113: `read`. -/
def State.shiftRead (s : State) : Byte := shiftWindow s.srReg s.srAmount

/-! ### Port operations -/

/-- Rule R154: a write to sound bank A. -/
def State.soundA (s : State) (byte : Byte) : State :=
  (s.setPrevA byte).emit ((soundAEvents s.cfg s.prevA byte).map .sound)

/-- Rule R155: a write to sound bank B. -/
def State.soundB (s : State) (byte : Byte) : State :=
  (s.setPrevB byte).emit ((soundBEvents s.cfg s.prevB byte).map .sound)

/-- Rule R162: the value of an input operation is handed to the engine. -/
def State.supplyInput (s : State) (value : Byte) : State := s.emit [.writeInput value]

/-- Rules R150, R152 to R161: the output operation that a port number selects. -/
def State.output (s : State) (port : Port) (byte : Byte) : State :=
  match selectOut s.cfg port with
  | .shiftAmount => s.setAmountByte byte
  | .soundA => s.soundA byte
  | .shiftData => s.feed byte
  | .soundB => s.soundB byte
  | .watchdog => s
  | .other => s

/-- Rules R163 to R168: the byte that an input port gives. -/
def State.inputValue (s : State) (port : Port) : Byte :=
  match selectIn s.cfg port with
  | .sys => s.inLatch.get .sys
  | .p1 => s.inLatch.get .p1
  | .p2 => s.inLatch.get .p2
  | .shift => s.shiftRead
  | .other => 0x00

/-- Rule R150: the dispatcher serves the engine's request, at most one port operation. -/
def State.dispatch (s : State) : IORequest → State
  | .idle => s
  | .output port byte => s.output port byte
  | .input port => s.supplyInput (s.inputValue port)

/-! ### Interrupts -/

/-- Rules R205, R254: hand the engine one interrupt request, at the emulated time of the call. The hardware saves nothing,
changes no mode and keeps no pending bit; what the engine does is outside it (log 28). -/
def State.raiseInterrupt (s : State) (vector : Nat) : State := s.emit [.interrupt vector s.emuClock]

/-! ### Display converter -/

/-- Rule R184: the pixel of a video bit. -/
def colour (c : Config) (lit : Bool) : Pixel := if lit then c.pixelWhite else c.pixelBlack

/-- Rule R182: the frame of a Video region whose byte at offset `i` is `video i`; output pixel `q` shows the video pixel that
the rotation takes to `q`. -/
def convertVideo (c : Config) (video : Nat → Byte) : Frame :=
  (List.range c.pixels).map fun q => colour c (videoBit video (sourcePixel c q))

/-- Rule R212: the conversion of the Video region as it stands. -/
def State.convertFrame (s : State) : Frame := convertVideo s.cfg s.videoByte

/-! ### Frame mirror -/

/-- Rule R231, after line 1: the writer that holds the lock writes its frame into the mirror, releases the lock and reports
`published`; with no publish in progress there is nothing to do. -/
def State.writerFinish (s : State) : State :=
  match s.lock with
  | .free => s
  | .heldByReader => s
  | .heldByWriter f => ((s.setMirror f).setLock .free).emit [.published f]

/-- Rule R231, line 1: the writer's try-acquire with the frame to publish; skipped exactly where the reader holds the lock (U17).
An earlier publish of the same thread is complete before this one begins (rules R14, R290; log 22). -/
def State.writerAcquire (s : State) (f : Frame) : State :=
  match s.lock with
  | .free => s.setLock (.heldByWriter f)
  | .heldByReader => s.emit [.publishSkipped]
  | .heldByWriter _ => s.writerFinish.setLock (.heldByWriter f)

/-- Rule R231: a whole publish as one move. -/
def State.publishFrame (s : State) (f : Frame) : State := (s.writerAcquire f).writerFinish

/-- A publish is in progress: the emulation thread stands between its lines (rule R231). -/
def State.publishing (s : State) : Bool :=
  match s.lock with
  | .free => false
  | .heldByReader => false
  | .heldByWriter _ => true

/-- Rule R232, line 1: the reader's blocking acquire. It waits where the writer holds the lock. -/
def State.readerAcquire (s : State) : State :=
  match s.lock with
  | .free => (s.setLock .heldByReader).setWaiting false
  | .heldByReader => s
  | .heldByWriter _ => s.setWaiting true

/-- Rule R232, after line 1: the holder copies the mirror, releases the lock and has the copy as the result; a reader that does not
hold the lock does nothing. -/
def State.readerFinish (s : State) : State :=
  if s.lock = .heldByReader then ((s.setLock .free).setLastRead (some s.mirror)).emit [.frameRead s.mirror] else s

/-- Rules R103, R241: `HOST.present` of the frame read last; nothing where none has been read (log 31). -/
def State.present (s : State) : State :=
  match s.lastRead with
  | none => s
  | some f => s.emit [.presented f]

/-! ### Input latches -/

/-- Rule R237: `latch_set`. -/
def State.latchSet (s : State) (l : Latch) (k : Fin 8) : State :=
  s.setLatches (s.inLatch.set l (latchWithSet (s.cfg.fixedMask.get l) (s.inLatch.get l) k))

/-- Rule R238: `latch_clear`. -/
def State.latchClear (s : State) (l : Latch) (k : Fin 8) : State :=
  s.setLatches (s.inLatch.set l (latchWithClear (s.cfg.fixedMask.get l) (s.inLatch.get l) k))

end Sys2Proof.Machine
end

