-- ==== Sys2Proof/Machine/Bridge.lean ====
section
/-! DEFINITION. The bridge's operations (rules R231, R232, R237, R238, R240). -/

namespace Sys2Proof.Machine

/-- The frame a publish carries (rules R212, R231). -/
def State.sourceFrame (s : State) : FrameSource → Frame
  | .fresh => s.convertFrame
  | .given f => f

/-- Rule R231: `publish`, whole or one of its two parts (log 22). -/
def execPublish (source : FrameSource) (part : PublishPart) (s : State) : Result :=
  match part with
  | .whole => .next (s.publishFrame (s.sourceFrame source))
  | .acquire => .next (s.writerAcquire (s.sourceFrame source))
  | .finish => .next s.writerFinish

/-- Rule R232: `read_frame`, to its end or up to the acquire (log 22); and rule R241: the presentation of its result, where a read
that holds the lock ends first (its use of the mirror in place, log 31). -/
def execReadFrame (part : ReadPart) (s : State) : Result :=
  match part with
  | .complete => .next s.readerAcquire.readerFinish
  | .acquire => .next s.readerAcquire
  | .present => .next s.readerFinish.present

/-- Rule R237: `latch_set`. -/
def execLatchSet (l : Latch) (k : Fin 8) (s : State) : Result := .next (s.latchSet l k)

/-- Rule R238: `latch_clear`. -/
def execLatchClear (l : Latch) (k : Fin 8) (s : State) : Result := .next (s.latchClear l k)

/-- Rule R240: `run_clear`, one atomic store. -/
def execRunClear (s : State) : Result := .next (s.setRun false)

end Sys2Proof.Machine
end

