-- ==== Sys2Proof/Machine/Converter.lean ====
section
/-! DEFINITION. The display converter's operation (rule R182). -/

namespace Sys2Proof.Machine

/-- Rule R182: `convert` reads the Video region and hands the frame to the caller; no state changes. -/
def execConvert (s : State) : Result := .next (s.emit [.converted s.convertFrame])

end Sys2Proof.Machine
end

