-- ==== Sys2Proof/Machine/MemoryImage.lean ====
section
/-! DEFINITION. The memory image's operations (rules R131 to R136) and the byte accesses that the address rows of the opcode
table select (rule R91). -/

namespace Sys2Proof.Machine

/-- Rule R131: a byte read, its byte handed to the caller. -/
def State.loadByte (s : State) (addr : Addr) : State := s.emit [.memBytes [readByteAt s.cfg s.mem addr]]

/-- Rule R132: a byte write. -/
def State.storeByte (s : State) (addr : Addr) (v : Byte) : State := s.setMem (writeByteAt s.cfg s.mem addr v)

/-- Rule R134: a bulk read; none where it is undefined (rule R69). -/
def State.loadBytes (s : State) (addr : Addr) (n : Nat) : Option State :=
  match memRead s.cfg s.mem addr n with
  | some bytes => some (s.emit [.memBytes bytes])
  | none => none

/-- Rule R135: a bulk write; none where it is undefined (rule R69). -/
def State.storeBytes (s : State) (addr : Addr) (v : List Byte) : Option State :=
  match memWrite s.cfg s.mem addr v with
  | some m => some (s.setMem m)
  | none => none

/-- One byte access at a CPU address (rules R91, R131, R132; log 20). -/
def State.access (s : State) (addr : Addr) : Access → State
  | .read => s.loadByte addr
  | .write v => s.storeByte addr v

/-- An operation that a model refuses where the spec leaves it undefined (rule R69; log 15). -/
def orCrossing : Option State → Result
  | some s => .next s
  | none => .refused .bulkCrossesRegion

/-- Rule R131: `read_byte`. -/
def execReadByte (addr : Addr) (s : State) : Result := .next (s.loadByte addr)

/-- Rule R132: `write_byte`. -/
def execWriteByte (addr : Addr) (byte : Byte) (s : State) : Result := .next (s.storeByte addr byte)

/-- Rule R134: `read_bytes`. -/
def execReadBytes (addr : Addr) (count : Nat) (s : State) : Result := orCrossing (s.loadBytes addr count)

/-- Rule R135: `write_bytes`. -/
def execWriteBytes (addr : Addr) (bytes : List Byte) (s : State) : Result := orCrossing (s.storeBytes addr bytes)

/-- Rule R136: `load_program`, once, before the emulation thread runs. -/
def execLoadProgram (image : Image) (s : State) : Result :=
  if s.programSealed then .refused .secondLoad
  else if image.length ≠ s.cfg.progSize then .fault (.loadFailure image.length)
  else .next (s.setMem (loadedMemory s.cfg image)).seal

/-- Rule R91, row Program: an access at an address of the pattern `xx0x xxxx xxxx xxxx`. -/
def execRegionProgram (addr : Addr) (x : Access) (s : State) : Result := .next (s.access addr x)

/-- Rule R91, row Working: an access at an address of the pattern `xx10 00xx xxxx xxxx`. -/
def execRegionWorking (addr : Addr) (x : Access) (s : State) : Result := .next (s.access addr x)

/-- Rule R91, first row Video: an access at an address of the pattern `xx10 01xx xxxx xxxx`. -/
def execRegionVideo2400 (addr : Addr) (x : Access) (s : State) : Result := .next (s.access addr x)

/-- Rule R91, second row Video: an access at an address of the pattern `xx10 1xxx xxxx xxxx`. -/
def execRegionVideo2800 (addr : Addr) (x : Access) (s : State) : Result := .next (s.access addr x)

/-- Rule R91, third row Video: an access at an address of the pattern `xx11 xxxx xxxx xxxx`. -/
def execRegionVideo3000 (addr : Addr) (x : Access) (s : State) : Result := .next (s.access addr x)

end Sys2Proof.Machine
end

