-- ==== Sys2Proof/Machine/Ports.lean ====
section
/-! DEFINITION. The port operations of the I/O dispatcher (rules R152 to R168). None fails (rule R99). -/

namespace Sys2Proof.Machine

/-- Rule R152: `OUT shift amount` forwards the byte to `set_amount`. -/
def execOutShiftAmount (byte : Byte) (s : State) : Result := .next (s.setAmountByte byte)

/-- Rule R153: `OUT shift data` forwards the byte to `feed`. -/
def execOutShiftData (byte : Byte) (s : State) : Result := .next (s.feed byte)

/-- Rule R154: `OUT sound bank A`. -/
def execOutSoundBankA (byte : Byte) (s : State) : Result := .next (s.soundA byte)

/-- Rule R155: `OUT sound bank B`. -/
def execOutSoundBankB (byte : Byte) (s : State) : Result := .next (s.soundB byte)

/-- Rule R157: `OUT watchdog`, a defined port with no observable effect. -/
def execOutWatchdog (_byte : Byte) (s : State) : Result := .next s

/-- Rule R161: `OUT other`, a no-operation. -/
def execOutOther (_port : Port) (_byte : Byte) (s : State) : Result := .next s

/-- Rule R163: `IN system`. -/
def execInSystem (s : State) : Result := .next (s.supplyInput (s.inLatch.get .sys))

/-- Rule R164: `IN player-1`. -/
def execInPlayer1 (s : State) : Result := .next (s.supplyInput (s.inLatch.get .p1))

/-- Rule R165: `IN player-2`. -/
def execInPlayer2 (s : State) : Result := .next (s.supplyInput (s.inLatch.get .p2))

/-- Rule R166: `IN shift result`. -/
def execInShiftResult (s : State) : Result := .next (s.supplyInput s.shiftRead)

/-- Rule R168: `IN other` reads zero. -/
def execInOther (_port : Port) (s : State) : Result := .next (s.supplyInput 0x00)

end Sys2Proof.Machine
end

