-- ==== Sys2Proof/Machine/Scheduler.lean ====
section
/-! DEFINITION. The video timing and interrupt scheduler (rules R200 to R215): the engine's step, the clock, the dispatch, the two
frame events, the batch, and the emulation thread's place in its loop. -/

namespace Sys2Proof.Machine

/-- Rule R140: one memory operation of the engine; none where it is undefined (rule R69). -/
def State.memOp (s : State) : MemOp → Option State
  | .readByte a => some (s.loadByte a)
  | .writeByte a v => some (s.storeByte a v)
  | .readBytes a n => s.loadBytes a n
  | .writeBytes a v => s.storeBytes a v

/-- Rules R74, R140, R202: the engine's memory operations during one step, each applied at once and in order. -/
def State.memOps (s : State) : List MemOp → Option State
  | [] => some s
  | op :: ops =>
    match s.memOp op with
    | some t => t.memOps ops
    | none => none

/-- Rule R201, R202: the emulated nanoseconds of a step. -/
def stepNs (c : Config) (cycles : Nat) : Nat := cycles * c.nsPerCycle

/-- Rules R201, R211: addition on clock values wraps at `2 ^ CLOCK_BITS`. -/
def clockAdd (c : Config) (t d : Nat) : Nat := (t + d) % 2 ^ c.clockBits

/-- Rule R201: the clock and the pacing counters after a step. -/
def State.advanceClock (s : State) (cycles : Nat) : State :=
  (s.setClock (clockAdd s.cfg s.emuClock (stepNs s.cfg cycles))).setBatch
    (s.batchStepsDone + 1) (s.batchNs + stepNs s.cfg cycles)

/-- Rules R204, R212: the end-of-frame event: mark, interrupt, conversion and publish, redraw request. -/
def State.endOfFrame (s : State) : State :=
  let t := (s.setDisplayMark (clockAdd s.cfg s.nextDisplay s.cfg.framePeriodNs)).raiseInterrupt s.cfg.vecEof
  (t.publishFrame t.convertFrame).emit [.redraw]

/-- Rule R206: the mid-frame event: mark, interrupt. -/
def State.midFrame (s : State) : State :=
  (s.setScreenMark (clockAdd s.cfg s.nextScreen s.cfg.framePeriodNs)).raiseInterrupt s.cfg.vecMid

/-- Rules R201, R207: at most one event in an iteration, the end of frame first. -/
def State.frameEvent (s : State) : State :=
  if s.nextDisplay ≤ s.emuClock then s.endOfFrame
  else if s.nextScreen ≤ s.emuClock then s.midFrame
  else s

/-- Rules R201, R203: one iteration after the engine's memory operations: clock, dispatch, frame event. -/
def State.afterStep (s : State) (answer : EngineAnswer) : State :=
  ((s.advanceClock answer.cycles).dispatch answer.request).frameEvent

/-- Rule R201: one iteration; none where the engine performs an undefined bulk operation. The emulation thread exists, so the
program store is closed (rule R133). -/
def State.iteration (s : State) (answer : EngineAnswer) : Option State :=
  match s.seal.memOps answer.memOps with
  | some t => some (t.afterStep answer)
  | none => none

/-- The iterations of a batch, one after another. -/
def State.iterations (s : State) : List EngineAnswer → Option State
  | [] => some s
  | x :: xs =>
    match s.iteration x with
    | some t => t.iterations xs
    | none => none

/-- Rule R201: `sched_iteration`. -/
def execSchedIteration (answer : EngineAnswer) (s : State) : Result := orCrossing (s.iteration answer)

/-- Rule R213: `sched_batch`: the counters are cleared, then one iteration for each answer; the run flag is not read. -/
def execSchedBatch (answers : List EngineAnswer) (s : State) : Result :=
  orCrossing ((s.setBatch 0 0).iterations answers)

/-- The emulation thread stands at its outer loop: no batch begun, or a batch done (rules R200, R213; log 24). -/
def State.atBatchBoundary (s : State) : Bool :=
  s.batchStepsDone == 0 || decide (s.cfg.batchSteps ≤ s.batchStepsDone)

/-- Rules R213, R215, R262: the emulation thread does not exist: it stands at its outer loop and the run flag is clear. Nothing
sets the flag again (rule R37), so it stays so. -/
def State.emulationEnded (s : State) : Bool := !s.run && s.atBatchBoundary

/-- Rule R213: at its outer loop the thread begins a batch with cleared pacing counters. -/
def State.beginBatch (s : State) : State := if s.atBatchBoundary then s.setBatch 0 0 else s

/-- Rules R200, R213: the thread's next iteration, the first of a batch or one inside it, on a free engine answer (log 9). -/
def State.ownIteration (s : State) : Result :=
  orCrossing (s.draw.beginBatch.iteration (Config.freeEngineAnswer s.freeCount))

end Sys2Proof.Machine
end

