-- ==== Sys2Proof/Machine/ShiftRegister.lean ====
section
/-! DEFINITION. The shift register's direct operations (rules R111 to R113). No operand and no state makes one fail (rule R123). -/

namespace Sys2Proof.Machine

/-- Rule R111: `SR.feed`. -/
def execSrFeed (byte : Byte) (s : State) : Result := .next (s.feed byte)

/-- Rule R112: `SR.set_amount`. -/
def execSrSetAmount (n : Byte) (s : State) : Result := .next (s.setAmountByte n)

/-- Rule R113: `SR.read`; the result byte goes to the caller, no state changes. -/
def execSrRead (s : State) : Result := .next (s.emit [.shiftResult s.shiftRead])

end Sys2Proof.Machine
end

