-- ==== Sys2Proof/Machine/Threads.lean ====
section
/-! DEFINITION. The two threads between operations (rules R15, R73, R269): who invokes an operation, what the emulation thread
does by itself, and what comes before a requested operation. Rules R8, R14, R74 and R290: an operation of a thread is complete
before the next one of the same thread begins, and only the other thread may move between two lines of `publish` or
`read_frame`. Rules R215, R262 and R271: a thread that has ended, or never started, performs nothing. -/

namespace Sys2Proof.Machine

/-- Who invokes an operation (rules R15, R90, R266). -/
inductive Agent where
  | emulation | presentation | startUp
  deriving DecidableEq, Repr

/-- Rules R90, R266: the agent of an operation. -/
def agentOf : Instr → Agent
  | .outShiftAmount _ => .emulation
  | .outSoundBankA _ => .emulation
  | .outShiftData _ => .emulation
  | .outSoundBankB _ => .emulation
  | .outWatchdog _ => .emulation
  | .outOther _ _ => .emulation
  | .inSystem => .emulation
  | .inPlayer1 => .emulation
  | .inPlayer2 => .emulation
  | .inShiftResult => .emulation
  | .inOther _ => .emulation
  | .regionProgram _ _ => .emulation
  | .regionWorking _ _ => .emulation
  | .regionVideo2400 _ _ => .emulation
  | .regionVideo2800 _ _ => .emulation
  | .regionVideo3000 _ _ => .emulation
  | .srFeed _ => .emulation
  | .srSetAmount _ => .emulation
  | .srRead => .emulation
  | .readByte _ => .emulation
  | .writeByte _ _ => .emulation
  | .readBytes _ _ => .emulation
  | .writeBytes _ _ => .emulation
  | .loadProgram _ => .startUp
  | .convert => .emulation
  | .schedIteration _ => .emulation
  | .schedBatch _ => .emulation
  | .publish _ _ => .emulation
  | .readFrame _ => .presentation
  | .latchSet _ _ => .presentation
  | .latchClear _ _ => .presentation
  | .runClear => .presentation

/-- A `sched_iteration`. -/
def isIteration : Instr → Bool
  | .schedIteration _ => true
  | _ => false

/-- A `sched_batch`. -/
def isBatch : Instr → Bool
  | .schedBatch _ => true
  | _ => false

/-- The second part of a `publish`. -/
def isFinish : Instr → Bool
  | .publish _ .finish => true
  | _ => false

/-- A `read_frame` proper, which needs the mirror lock; presenting a frame already read does not. -/
def isRead : Instr → Bool
  | .readFrame .complete => true
  | .readFrame .acquire => true
  | _ => false

/-- Rules R200, R213, R215: what the emulation thread does when no request is queued (log 24). It completes the publish it is
in; a thread that does not exist does nothing; else it runs its next iteration. At its outer loop the run flag decides which of
the two; inside a batch it is not read. -/
def emulationMove (s : State) : Result :=
  if s.publishing then .next s.writerFinish
  else if s.emulationEnded then .next s
  else s.ownIteration

/-- Rules R14, R290: what the thread of a requested operation has to do first, the request staying in the queue (log 22, log 24).
The emulation thread completes the publish it is in, and the batch it is in before a requested batch. The presentation thread
completes the read it is in before another operation; while the writer holds the lock it waits, and the emulation thread moves. -/
def unfinished (i : Instr) (s : State) : Option Result :=
  match agentOf i with
  | .emulation =>
    if s.publishing && !isFinish i then some (.next s.writerFinish)
    else if isBatch i && !s.atBatchBoundary then some s.ownIteration
    else none
  | .presentation =>
    match s.lock with
    | .free => if s.readerWaiting && !isRead i then some (.next s.readerAcquire) else none
    | .heldByReader => if isRead i then none else some (.next s.readerFinish)
    | .heldByWriter _ => if s.readerWaiting || isRead i then some (.next (s.setWaiting true).writerFinish) else none
  | .startUp => none

/-- The state in which a requested operation is performed. The emulation thread runs, so the program store is closed (rules R133,
R136; log 17), and an iteration at its outer loop is the first of a batch (log 30). -/
def State.ready (i : Instr) (t : State) : State :=
  match agentOf i with
  | .emulation => (if isIteration i then t.beginBatch else t).seal
  | .presentation => t
  | .startUp => t

/-- Rules R215, R262, R271: the thread that would perform an operation does not exist. -/
def State.inert (i : Instr) (s : State) : Bool := decide (agentOf i = .emulation) && s.emulationEnded && !s.publishing

/-- What a step does with the operation `i` that the oldest request of `s` asks for, `t` being `s` without that request: `ok`, the
state in which to perform it; or `error`, what happens instead. A thread that does not exist drops its request (log 23). -/
def turn (i : Instr) (s t : State) : Except Result State :=
  match unfinished i s with
  | some r => .error r
  | none => if s.inert i then .error (.next t) else .ok (t.ready i)

/-! ### What `withFetchWord` takes out of an operation's way (log 24); no step uses this -/

/-- No publish that the thread of `i` would have to complete first. -/
def State.noOpenPublish (i : Instr) (s : State) : State :=
  if s.publishing && !isFinish i then s.setLock .free else s

/-- No batch that would have to be completed before the batch `i`. -/
def State.noOpenBatch (i : Instr) (s : State) : State :=
  if isBatch i && !s.atBatchBoundary then s.setBatch 0 0 else s

/-- A thread that exists. -/
def State.alive (i : Instr) (s : State) : State := if s.inert i then s.setRun true else s

/-- No read that the presentation thread would have to complete before `i`, and no writer that a read would wait for. -/
def State.noOpenRead (i : Instr) (s : State) : State :=
  if isRead i then (if s.publishing then s.setLock .free else s)
  else if s.lock = .heldByReader then (s.setLock .free).setWaiting false else s.setWaiting false

/-- The state with nothing that a step would do before operation `i`. -/
def State.clearedFor (i : Instr) (s : State) : State :=
  match agentOf i with
  | .emulation => ((s.noOpenPublish i).noOpenBatch i).alive i
  | .presentation => s.noOpenRead i
  | .startUp => s

end Sys2Proof.Machine
end

