-- ==== Sys2Proof/Machine/Dispatch.lean ====
section
/-! DEFINITION. The meaning of every operation: one arm for each constructor of `Instr`, one direct call of its meaning. -/

namespace Sys2Proof.Machine

def exec (i : Instr) (s : State) : Host.Outcome State Fault Refusal :=
  match i with
  -- port operations
  | .outShiftAmount byte => Sys2Proof.Machine.execOutShiftAmount byte s
  | .outSoundBankA byte => Sys2Proof.Machine.execOutSoundBankA byte s
  | .outShiftData byte => Sys2Proof.Machine.execOutShiftData byte s
  | .outSoundBankB byte => Sys2Proof.Machine.execOutSoundBankB byte s
  | .outWatchdog byte => Sys2Proof.Machine.execOutWatchdog byte s
  | .outOther port byte => Sys2Proof.Machine.execOutOther port byte s
  | .inSystem => Sys2Proof.Machine.execInSystem s
  | .inPlayer1 => Sys2Proof.Machine.execInPlayer1 s
  | .inPlayer2 => Sys2Proof.Machine.execInPlayer2 s
  | .inShiftResult => Sys2Proof.Machine.execInShiftResult s
  | .inOther port => Sys2Proof.Machine.execInOther port s
  -- the address decode of a CPU memory access
  | .regionProgram addr access => Sys2Proof.Machine.execRegionProgram addr access s
  | .regionWorking addr access => Sys2Proof.Machine.execRegionWorking addr access s
  | .regionVideo2400 addr access => Sys2Proof.Machine.execRegionVideo2400 addr access s
  | .regionVideo2800 addr access => Sys2Proof.Machine.execRegionVideo2800 addr access s
  | .regionVideo3000 addr access => Sys2Proof.Machine.execRegionVideo3000 addr access s
  -- direct operations
  | .srFeed byte => Sys2Proof.Machine.execSrFeed byte s
  | .srSetAmount n => Sys2Proof.Machine.execSrSetAmount n s
  | .srRead => Sys2Proof.Machine.execSrRead s
  | .readByte addr => Sys2Proof.Machine.execReadByte addr s
  | .writeByte addr byte => Sys2Proof.Machine.execWriteByte addr byte s
  | .readBytes addr count => Sys2Proof.Machine.execReadBytes addr count s
  | .writeBytes addr bytes => Sys2Proof.Machine.execWriteBytes addr bytes s
  | .loadProgram image => Sys2Proof.Machine.execLoadProgram image s
  | .convert => Sys2Proof.Machine.execConvert s
  | .schedIteration answer => Sys2Proof.Machine.execSchedIteration answer s
  | .schedBatch answers => Sys2Proof.Machine.execSchedBatch answers s
  | .publish source part => Sys2Proof.Machine.execPublish source part s
  | .readFrame part => Sys2Proof.Machine.execReadFrame part s
  | .latchSet latch bit => Sys2Proof.Machine.execLatchSet latch bit s
  | .latchClear latch bit => Sys2Proof.Machine.execLatchClear latch bit s
  | .runClear => Sys2Proof.Machine.execRunClear s

end Sys2Proof.Machine
end

