-- ==== Sys2Proof/Machine/Fetch.lean ====
section
/-! DEFINITION. Where the next operation comes from: the oldest queued request (log 1, log 24). -/

namespace Sys2Proof.Machine

/-- The next move: none where no request is queued (the emulation thread then moves by itself); else the operation that the
oldest request asks for, with the state that has it removed from the queue; or the refusal of a request that asks for none. -/
def fetch (s : State) : Except Refusal (Option (Instr × State)) :=
  match s.requests with
  | [] => .ok none
  | r :: rest =>
    match decode s.cfg r with
    | .error e => .error (.undecodable e)
    | .ok i => if i.wf s.cfg then .ok (some (i, s.setRequests rest)) else .error .illFormed

/-- A request put before the others. -/
def State.pushRequest (s : State) (r : Request) : State := s.setRequests (r :: s.requests)

/-- A request put before the others, and nothing in the way of the operation it asks for (log 24). -/
def State.withRequest (s : State) (r : Request) : State :=
  match decode s.cfg r with
  | .error _ => s.pushRequest r
  | .ok i => (s.clearedFor i).pushRequest r

end Sys2Proof.Machine
end

