-- ==== Sys2Proof/Machine/Step.lean ====
section
/-! DEFINITION. One step of the machine: the oldest queued request's operation, what its thread has to do first, or the emulation
thread's own move. -/

namespace Sys2Proof.Machine

/-- One step. -/
def step (s : State) : Host.Outcome State Fault Refusal :=
  match fetch s with
  | .error r => .refused r
  | .ok none => emulationMove s
  | .ok (some (i, t)) =>
    match turn i s t with
    | .error r => r
    | .ok u => exec i u

/-- The state with a word of spec/opcode_table.json as its oldest request, operand bytes zero, and nothing that the operation's
thread would have to do first, so that the next step runs the operation the word stands for. -/
def State.withFetchWord (s : State) (nbits w : Nat) : State := s.withRequest (tableRequest s.cfg nbits w)

end Sys2Proof.Machine
end

