-- ==== Sys2Proof/Machine/Boot.lean ====
section
/-! DEFINITION. The reset procedure with its inputs (rule R281): the configuration, the program image, whether the audio backend
is available. -/

namespace Sys2Proof.Machine

/-- Rules R261, R262, R281: emulator start. A missing image or one whose length is not PROG_SIZE is a `LoadFailure` (a missing
one reports length 0); without the audio backend the run flag is clear. -/
def powerOn (c : Config) (image : Option Image) (audio : Bool) : Result :=
  match image with
  | none => .fault (.loadFailure 0)
  | some im => execLoadProgram im (State.resetWith c audio)

end Sys2Proof.Machine
end

