-- ==== Sys2Proof/Safety.lean ====
section
/-! DEFINITION. The terms that claims are stated in: the invariant of the machine, runs of operations, defined bulk ranges, what
a trace of outputs says about interrupts and about the frame mirror, and states that differ only in the mirror. -/

namespace Sys2Proof.Machine

/-- The invariant that every step keeps: a valid configuration (rule R11), the canonical memory with every listed cell in a
region (rule R32), the fixed bits of the latches (rule R28), clock values that fit the clock (rules R33, R34), a mirror, a frame
being published and a frame read of the frame's size (rules R36, R231, R232), and a waiting reader that does not hold the lock (rule R232). -/
structure Inv (s : State) : Prop where
  cfg_valid : s.cfg.Valid
  mem_wf : Memory.wf s.mem
  mem_in_regions : ∀ x ∈ s.mem, regionOf s.cfg x.1 ≠ none
  fixed_bits : ∀ l, s.inLatch.get l &&& s.cfg.fixedMask.get l = s.cfg.fixedValue.get l
  clock_fits : s.emuClock < 2 ^ s.cfg.clockBits
  screen_fits : s.nextScreen < 2 ^ s.cfg.clockBits
  display_fits : s.nextDisplay < 2 ^ s.cfg.clockBits
  mirror_size : s.mirror.length = s.cfg.pixels
  last_read_size : ∀ f, s.lastRead = some f → f.length = s.cfg.pixels
  publishing_size : ∀ f, s.lock = .heldByWriter f → f.length = s.cfg.pixels
  waiting_not_holding : s.readerWaiting = true → s.lock ≠ .heldByReader

/-- Operations performed one after another, stopping at the first fault or refusal. -/
def runOps : List Instr → State → Result
  | [], s => .next s
  | i :: is, s =>
    match exec i s with
    | .next t => runOps is t
    | .fault r => .fault r
    | .refused r => .refused r

/-- A window address inside one of the three regions (rule R91). -/
abbrev inRegion (c : Config) (a : Nat) : Prop :=
  (c.progBase ≤ a ∧ a < c.progBase + c.progSize) ∨ (c.workBase ≤ a ∧ a < c.workBase + c.workSize) ∨
  (c.videoBase ≤ a ∧ a < c.videoBase + c.videoSize)

/-- A window address inside a region that a program may write (rule R67). -/
abbrev isWritable (c : Config) (a : Nat) : Prop :=
  (c.workBase ≤ a ∧ a < c.workBase + c.workSize) ∨ (c.videoBase ≤ a ∧ a < c.videoBase + c.videoSize)

/-- Rules R66, R67, R69: a bulk range has a defined effect: at most one byte, or wholly inside one region. -/
abbrev rangeDefined (c : Config) (addr : Addr) (n : Nat) : Prop :=
  n ≤ 1 ∨
  (c.progBase ≤ addr.toNat % 0x4000 ∧ addr.toNat % 0x4000 + n ≤ c.progBase + c.progSize) ∨
  (c.workBase ≤ addr.toNat % 0x4000 ∧ addr.toNat % 0x4000 + n ≤ c.workBase + c.workSize) ∨
  (c.videoBase ≤ addr.toNat % 0x4000 ∧ addr.toNat % 0x4000 + n ≤ c.videoBase + c.videoSize)

/-- An engine memory operation with a defined effect. -/
def opDefined (c : Config) : MemOp → Prop
  | .readByte _ => True
  | .writeByte _ _ => True
  | .readBytes a n => rangeDefined c a n
  | .writeBytes a v => rangeDefined c a v.length

/-- The operation that an engine memory operation performs (rule R140). -/
def memOpInstr : MemOp → Instr
  | .readByte a => .readByte a
  | .writeByte a v => .writeByte a v
  | .readBytes a n => .readBytes a n
  | .writeBytes a v => .writeBytes a v

/-- An engine memory operation that names the cell at window address `a` as one it stores to (rules R132, R135). -/
def storesTo (a : Nat) : MemOp → Prop
  | .readByte _ => False
  | .writeByte addr _ => a = addr.toNat % 0x4000
  | .readBytes _ _ => False
  | .writeBytes addr v => addr.toNat % 0x4000 ≤ a ∧ a < addr.toNat % 0x4000 + v.length

/-- The byte that an operation feeds to the shift register (rules R111, R153). -/
def fedByte : Instr → Option Byte
  | .srFeed b => some b
  | .outShiftData b => some b
  | _ => none

/-- The byte that an operation sets the shift amount from (rules R112, R152). -/
def amountByte : Instr → Option Byte
  | .srSetAmount n => some n
  | .outShiftAmount n => some n
  | _ => none

/-- The bit position of the flag that a sound event belongs to (rules R97, R98). -/
def soundBit (c : Config) : Sound → Nat
  | .ufoLoopStart => c.bitUfoLoop.val
  | .ufoLoopStop => c.bitUfoLoop.val
  | .shot => c.bitShot.val
  | .flash => c.bitFlash.val
  | .invaderDie => c.bitInvaderDie.val
  | .extendedPlay => c.bitExtendedPlay.val
  | .fleetStep1 => c.bitFleet1.val
  | .fleetStep2 => c.bitFleet2.val
  | .fleetStep3 => c.bitFleet3.val
  | .fleetStep4 => c.bitFleet4.val
  | .ufoHit => c.bitUfoHit.val

/-- The emulation thread's loop operations (rules R201, R213). -/
def isScheduler : Instr → Bool
  | .schedIteration _ => true
  | .schedBatch _ => true
  | _ => false

/-- The vectors of the interrupts in a trace, in order (rule R205). -/
def interruptVectors (os : List Output) : List Nat :=
  os.filterMap fun o => match o with
    | .interrupt v _ => some v
    | _ => none

/-- The redraw requests in a trace (rule R241). -/
def redraws (os : List Output) : Nat := os.count .redraw

/-- A trace says nothing of a publish, be it written or skipped (rule R231). -/
def noPublish (os : List Output) : Prop := ∀ o ∈ os, (∀ f, o ≠ .published f) ∧ o ≠ .publishSkipped

/-- What the mirror holds after the publishes of a trace, from what it held before (rules R231, R233). -/
def mirrorAfter (before : Frame) (os : List Output) : Frame :=
  os.foldl (fun f o => match o with
    | .published g => g
    | _ => f) before

/-- What the last read gave after the reads of a trace, from what it was before (rules R232, R241). -/
def lastReadAfter (before : Option Frame) (os : List Output) : Option Frame :=
  os.foldl (fun f o => match o with
    | .frameRead g => some g
    | _ => f) before

/-- Rule R234: the two states are equal but for the mirror, its lock, the reader's waiting bit and last read, and the outputs
made. -/
def equalButMirror (s t : State) : Prop :=
  { s with mirror := t.mirror, lock := t.lock, readerWaiting := t.readerWaiting, lastRead := t.lastRead, trace := t.trace } = t

/-- The emulated nanoseconds of a list of engine answers together. -/
def totalNs (c : Config) (xs : List EngineAnswer) : Nat := (xs.map fun x => stepNs c x.cycles).sum

end Sys2Proof.Machine
end

