-- ==== Sys2Proof/Certificates/Slice0/Obligations.lean ====
section
/-! DEFINITION. The statements for the provers, one `def Obligations.<Name> : Prop` each. A next state is written out as the old
state with the fields that change, so that each statement is also the operation's frame and its completion. -/

open Sys2Proof Sys2Proof.Machine

/-! ### Shift register -/

/-- R111, R153: a feed shifts the byte into the high half; the old high half becomes the low half; nothing else changes. -/
def Obligations.FeedShiftsByteIntoHighHalf : Prop :=
  ∀ (s : State) (b : Byte),
    exec (.srFeed b) s = .next { s with srReg := (b.setWidth 16 <<< 8) ||| (s.srReg >>> 8) } ∧
    exec (.outShiftData b) s = .next { s with srReg := (b.setWidth 16 <<< 8) ||| (s.srReg >>> 8) }

/-- R112, R152: the amount is the low three bits of the byte; nothing else changes. -/
def Obligations.SetAmountKeepsLowThreeBits : Prop :=
  ∀ (s : State) (n : Byte),
    exec (.srSetAmount n) s = .next { s with srAmount := BitVec.ofNat 3 (n.toNat % 8) } ∧
    exec (.outShiftAmount n) s = .next { s with srAmount := BitVec.ofNat 3 (n.toNat % 8) }

/-- R113, R166: a read returns `(SR.reg >> (8 − SR.amount)) mod 256` and changes nothing. -/
def Obligations.ShiftReadReturnsWindow : Prop :=
  ∀ s : State,
    let r : Byte := BitVec.ofNat 8 (s.srReg.toNat / 2 ^ (8 - s.srAmount.toNat) % 256)
    exec .srRead s = .next { s with trace := s.trace ++ [.shiftResult r] } ∧
    exec .inShiftResult s = .next { s with trace := s.trace ++ [.writeInput r] }

/-- R114, R116, R117: the equivalent forms of a read (bit by bit, left shift, the two halves) and its fields at amounts 0 and 7. -/
def Obligations.ShiftReadEquivalentForms : Prop :=
  ∀ s : State, ∃ r : Byte, exec .srRead s = .next { s with trace := s.trace ++ [.shiftResult r] } ∧
    (∀ k, k < 8 → r.getLsbD k = s.srReg.getLsbD (k + 8 - s.srAmount.toNat)) ∧
    r.toNat = ((s.srReg.toNat <<< s.srAmount.toNat) >>> 8) % 256 ∧
    r.toNat = (((s.srReg.toNat / 256) <<< s.srAmount.toNat) % 256) ||| ((s.srReg.toNat % 256) >>> (8 - s.srAmount.toNat)) ∧
    (s.srAmount = 0 → r.toNat = s.srReg.toNat / 256) ∧
    (s.srAmount = 7 → r.toNat = s.srReg.toNat / 2 % 256)

/-- R119: after any sequence of feeds and amount writes the register holds the last two fed bytes and the amount is that of the
last amount write, however the two are interleaved; nothing else changes. -/
def Obligations.RegisterHoldsLastTwoFedBytes : Prop :=
  ∀ (ops : List Instr) (s : State), (∀ i ∈ ops, (fedByte i).isSome = true ∨ (amountByte i).isSome = true) →
    ∃ t, runOps ops s = .next t ∧
      (match (ops.filterMap fedByte).reverse with
        | [] => t.srReg = s.srReg
        | [b] => t.srReg = b ++ s.srReg.extractLsb' 8 8
        | b :: b' :: _ => t.srReg = b ++ b') ∧
      (match (ops.filterMap amountByte).reverse with
        | [] => t.srAmount = s.srAmount
        | n :: _ => t.srAmount = n.setWidth 3) ∧
      t = { s with srReg := t.srReg, srAmount := t.srAmount }

/-- R120: the shift idiom, with `a = n mod 8`. After `set_amount(n)`, `feed(l)`, `feed(b)` a read gives the low byte of
`(b << a) | (l >> (8 − a))`; after one more `feed(0)` it gives `b >> (8 − a)`. From a high half of zero, without the `feed(l)`,
the two reads give the 16-bit value `b << a`, low byte first. -/
def Obligations.ShiftIdiomGivesSixteenBitShift : Prop :=
  ∀ (s : State) (n l b : Byte),
    (∃ (t : State) (r1 r2 : Byte),
      runOps [.srSetAmount n, .srFeed l, .srFeed b, .srRead, .srFeed 0, .srRead] s = .next t ∧
      t.trace = s.trace ++ [.shiftResult r1, .shiftResult r2] ∧
      r1.toNat = ((b.toNat <<< (n.toNat % 8)) ||| (l.toNat >>> (8 - n.toNat % 8))) % 256 ∧
      r2.toNat = b.toNat >>> (8 - n.toNat % 8)) ∧
    (s.srReg.extractLsb' 8 8 = 0 → ∃ (t : State) (r1 r2 : Byte),
      runOps [.srSetAmount n, .srFeed b, .srRead, .srFeed 0, .srRead] s = .next t ∧
      t.trace = s.trace ++ [.shiftResult r1, .shiftResult r2] ∧
      r1.toNat = (b.toNat <<< (n.toNat % 8)) % 256 ∧ r2.toNat = b.toNat >>> (8 - n.toNat % 8) ∧
      256 * r2.toNat + r1.toNat = b.toNat <<< (n.toNat % 8))

/-! ### Ports -/

/-- R154: a write to sound bank A emits exactly the start events of the flags that rose (extended-play only if the configuration
has its event) and the stop event of the ufo loop if it fell, each once, and replaces the latch. -/
def Obligations.SoundBankAEmitsEdgesAndReplacesLatch : Prop :=
  ∀ (s : State) (b : Byte), ∃ ev : List Sound,
    exec (.outSoundBankA b) s = .next { s with prevA := b, trace := s.trace ++ ev.map .sound } ∧ ev.Nodup ∧
    let rose := fun k : Fin 8 => b.getLsbD k.val = true ∧ s.prevA.getLsbD k.val = false
    let fell := fun k : Fin 8 => b.getLsbD k.val = false ∧ s.prevA.getLsbD k.val = true
    ∀ e, e ∈ ev ↔
      (e = .ufoLoopStart ∧ rose s.cfg.bitUfoLoop) ∨ (e = .ufoLoopStop ∧ fell s.cfg.bitUfoLoop) ∨
      (e = .shot ∧ rose s.cfg.bitShot) ∨ (e = .flash ∧ rose s.cfg.bitFlash) ∨
      (e = .invaderDie ∧ rose s.cfg.bitInvaderDie) ∨
      (e = .extendedPlay ∧ rose s.cfg.bitExtendedPlay ∧ s.cfg.extendedPlayEvent = true)

/-- R155: a write to sound bank B emits exactly the events of the flags that rose, each once, and replaces the latch. -/
def Obligations.SoundBankBEmitsRisesAndReplacesLatch : Prop :=
  ∀ (s : State) (b : Byte), ∃ ev : List Sound,
    exec (.outSoundBankB b) s = .next { s with prevB := b, trace := s.trace ++ ev.map .sound } ∧ ev.Nodup ∧
    let rose := fun k : Fin 8 => b.getLsbD k.val = true ∧ s.prevB.getLsbD k.val = false
    ∀ e, e ∈ ev ↔
      (e = .fleetStep1 ∧ rose s.cfg.bitFleet1) ∨ (e = .fleetStep2 ∧ rose s.cfg.bitFleet2) ∨
      (e = .fleetStep3 ∧ rose s.cfg.bitFleet3) ∨ (e = .fleetStep4 ∧ rose s.cfg.bitFleet4) ∨
      (e = .ufoHit ∧ rose s.cfg.bitUfoHit)

/-- R156: writing to a sound port the byte that was last written to it emits nothing and changes nothing. -/
def Obligations.SameSoundByteTwiceEmitsNothing : Prop :=
  ∀ (s t : State) (b : Byte),
    (exec (.outSoundBankA b) s = .next t → exec (.outSoundBankA b) t = .next t) ∧
    (exec (.outSoundBankB b) s = .next t → exec (.outSoundBankB b) t = .next t)

/-- The MODEL'S CHOICE (log 12; D11): the events of one sound write are in ascending order of their flags' bit positions. -/
def Obligations.SoundEventsAscendByBitPosition : Prop :=
  ∀ (s : State) (b : Byte), s.cfg.SoundBitsOk → ∃ ea eb : List Sound,
    exec (.outSoundBankA b) s = .next { s with prevA := b, trace := s.trace ++ ea.map .sound } ∧
    exec (.outSoundBankB b) s = .next { s with prevB := b, trace := s.trace ++ eb.map .sound } ∧
    ea.Pairwise (fun x y => soundBit s.cfg x < soundBit s.cfg y) ∧
    eb.Pairwise (fun x y => soundBit s.cfg x < soundBit s.cfg y)

/-- R157, R161: a write to the watchdog or to an unknown port, of any number, changes nothing and emits nothing. -/
def Obligations.WatchdogAndUnknownOutputsDoNothing : Prop :=
  ∀ (s : State) (p : Port) (b : Byte),
    exec (.outWatchdog b) s = .next s ∧ exec (.outOther p b) s = .next s

/-- R163, R164, R165, R168: an input port gives the engine its latch byte, an unknown port gives zero; nothing else changes. -/
def Obligations.InputPortsReturnLatchesAndZero : Prop :=
  ∀ (s : State) (p : Port),
    exec .inSystem s = .next { s with trace := s.trace ++ [.writeInput s.inLatch.sys] } ∧
    exec .inPlayer1 s = .next { s with trace := s.trace ++ [.writeInput s.inLatch.p1] } ∧
    exec .inPlayer2 s = .next { s with trace := s.trace ++ [.writeInput s.inLatch.p2] } ∧
    exec (.inOther p) s = .next { s with trace := s.trace ++ [.writeInput 0] }

/-- R84, R93, R94, R95, R99: every I/O request decodes, whatever natural number its port is, and under distinct port numbers a
port selects its operation and no other; every CPU address decodes, as a read and as a write. What is decoded is well-formed.
A port `0..255` is asked for by rule R93's word; the form of a wider one is the MODEL'S CHOICE (log 21). -/
def Obligations.EveryPortAndAddressDecodes : Prop :=
  ∀ (c : Config) (p : Port) (b : Byte) (a : Addr) (x : Access), c.PortsOk →
    (p < 256 → (outRequest p b).bytes = [BitVec.ofNat 8 p, 1, b] ∧ (inRequest p).bytes = [BitVec.ofNat 8 p, 0]) ∧
    (∃ i, decode c (outRequest p b) = .ok i ∧ i.wf c = true ∧
      (i = .outShiftAmount b ↔ p = c.portOutShiftAmount) ∧ (i = .outSoundBankA b ↔ p = c.portOutSoundA) ∧
      (i = .outShiftData b ↔ p = c.portOutShiftData) ∧ (i = .outSoundBankB b ↔ p = c.portOutSoundB) ∧
      (i = .outWatchdog b ↔ p = c.portOutWatchdog) ∧
      (i = .outOther p b ↔ p ∉ [c.portOutShiftAmount, c.portOutSoundA, c.portOutShiftData, c.portOutSoundB, c.portOutWatchdog])) ∧
    (∃ i, decode c (inRequest p) = .ok i ∧ i.wf c = true ∧
      (i = .inSystem ↔ p = c.portInSys) ∧ (i = .inPlayer1 ↔ p = c.portInP1) ∧ (i = .inPlayer2 ↔ p = c.portInP2) ∧
      (i = .inShiftResult ↔ p = c.portInShift) ∧
      (i = .inOther p ↔ p ∉ [c.portInSys, c.portInP1, c.portInP2, c.portInShift])) ∧
    (∃ i, decode c (memRequest a x) = .ok i ∧ i.wf c = true)

/-! ### Memory image -/

/-- R131: `read_byte` returns the cell of the window address (its low 14 bits), zero where it is in no region; nothing else
changes. That a read by any of the five address rows does the same is the model's choice (log 20). -/
def Obligations.ByteReadReturnsWindowCell : Prop :=
  ∀ (s : State) (addr : Addr),
    ∀ i ∈ [Instr.readByte addr, .regionProgram addr .read, .regionWorking addr .read, .regionVideo2400 addr .read,
        .regionVideo2800 addr .read, .regionVideo3000 addr .read],
      exec i s = .next { s with trace := s.trace ++
        [.memBytes [if inRegion s.cfg (addr.toNat % 0x4000) then s.mem.read (addr.toNat % 0x4000) else 0]] }

/-- R132: `write_byte` writes the cell of the window address where it lies in the Working or the Video region; every other byte of
memory reads as before. That a write elsewhere is discarded is the spec's decisions D4 and D5 (log 16); that a write by any of
the five address rows does the same as `write_byte` is the model's choice (log 20). -/
def Obligations.ByteWriteStoresInWritableRegions : Prop :=
  ∀ (s : State) (addr : Addr) (v : Byte), s.cfg.RegionsOk → Memory.wf s.mem →
    ∀ i ∈ [Instr.writeByte addr v, .regionProgram addr (.write v), .regionWorking addr (.write v),
        .regionVideo2400 addr (.write v), .regionVideo2800 addr (.write v), .regionVideo3000 addr (.write v)],
      ∃ m : Memory, exec i s = .next { s with mem := m } ∧
        (∀ a, a ≠ addr.toNat % 0x4000 → m.read a = s.mem.read a) ∧
        (isWritable s.cfg (addr.toNat % 0x4000) → m.read (addr.toNat % 0x4000) = v) ∧
        (¬ isWritable s.cfg (addr.toNat % 0x4000) → m = s.mem)

/-- R139(b): a byte written to Working or Video reads back at every mirror of its address. -/
def Obligations.WrittenByteReadsBackAtEveryMirror : Prop :=
  ∀ (s : State) (addr : Addr) (v : Byte) (k : Nat), s.cfg.RegionsOk → Memory.wf s.mem →
    isWritable s.cfg (addr.toNat % 0x4000) →
    ∃ t, exec (.writeByte addr v) s = .next t ∧
      exec (.readByte (addr + BitVec.ofNat 16 (0x4000 * k))) t = .next { t with trace := t.trace ++ [.memBytes [v]] }

/-- R61: address bits 15 and 14 are ignored by every memory operation: an address and its mirrors do the same. -/
def Obligations.MirroredAddressesAreTheSameCell : Prop :=
  ∀ (s : State) (addr : Addr) (k : Nat) (v : Byte) (n : Nat) (vs : List Byte),
    exec (.readByte (addr + BitVec.ofNat 16 (0x4000 * k))) s = exec (.readByte addr) s ∧
    exec (.writeByte (addr + BitVec.ofNat 16 (0x4000 * k)) v) s = exec (.writeByte addr v) s ∧
    exec (.readBytes (addr + BitVec.ofNat 16 (0x4000 * k)) n) s = exec (.readBytes addr n) s ∧
    exec (.writeBytes (addr + BitVec.ofNat 16 (0x4000 * k)) vs) s = exec (.writeBytes addr vs) s

/-- R91, its table: under the recommended bounds the five bit patterns are the regions, with the offsets of the table. -/
def Obligations.AddressPatternsAreTheRegions : Prop :=
  ∀ addr : Addr,
    let c := Config.recommended
    let a := addr.toNat % 0x4000
    (memRow addr = .program → regionOf c a = some .program ∧ a - c.progBase = addr.toNat % 0x2000) ∧
    (memRow addr = .working → regionOf c a = some .working ∧ a - c.workBase = addr.toNat % 0x400) ∧
    (memRow addr = .video2400 → regionOf c a = some .video ∧ 0x2400 ≤ a ∧ a ≤ 0x27FF ∧
      a - c.videoBase = addr.toNat % 0x2000 - 0x400) ∧
    (memRow addr = .video2800 → regionOf c a = some .video ∧ 0x2800 ≤ a ∧ a ≤ 0x2FFF ∧
      a - c.videoBase = addr.toNat % 0x2000 - 0x400) ∧
    (memRow addr = .video3000 → regionOf c a = some .video ∧ 0x3000 ≤ a ∧ a ≤ 0x3FFF ∧
      a - c.videoBase = addr.toNat % 0x2000 - 0x400)

/-- R134: a bulk read of a defined range returns its bytes in ascending order; nothing else changes. -/
def Obligations.BulkReadReturnsRangeInOrder : Prop :=
  ∀ (s : State) (addr : Addr) (n : Nat), s.cfg.RegionsOk → rangeDefined s.cfg addr n →
    ∃ bs : List Byte, exec (.readBytes addr n) s = .next { s with trace := s.trace ++ [.memBytes bs] } ∧
      bs.length = n ∧
      ∀ k, k < n → bs[k]? = some (if inRegion s.cfg (addr.toNat % 0x4000 + k) then s.mem.read (addr.toNat % 0x4000 + k) else 0)

/-- R135: a bulk write of a defined range is the byte writes at ascending addresses, in that order, and it completes. -/
def Obligations.BulkWriteIsByteWritesInOrder : Prop :=
  ∀ (s : State) (addr : Addr) (vs : List Byte), s.cfg.RegionsOk → rangeDefined s.cfg addr vs.length →
    ∃ t, exec (.writeBytes addr vs) s = .next t ∧ t = { s with mem := t.mem } ∧
      runOps (vs.zipIdx.map fun x => .writeByte (addr + BitVec.ofNat 16 x.2) x.1) s = .next t

/-- R69: a bulk range of two bytes or more that lies in no one region, running past `0x3FFF` included, is refused. -/
def Obligations.BulkCrossingIsRefused : Prop :=
  ∀ (s : State) (addr : Addr) (n : Nat) (vs : List Byte), s.cfg.RegionsOk →
    (¬ rangeDefined s.cfg addr n → exec (.readBytes addr n) s = .refused .bulkCrossesRegion) ∧
    (¬ rangeDefined s.cfg addr vs.length → exec (.writeBytes addr vs) s = .refused .bulkCrossesRegion)

/-- R136: before the program store is closed, an image of PROG_SIZE bytes loads: the Program region holds its bytes, Working and
Video are zero, and nothing but memory and the closing of the store (the model's own field, log 17) changes. -/
def Obligations.LoadFillsProgramAndClearsTheRest : Prop :=
  ∀ (s : State) (im : Image), s.cfg.RegionsOk → s.programSealed = false → im.WF → im.length = s.cfg.progSize →
    ∃ t, exec (.loadProgram im) s = .next t ∧ t = { s with mem := t.mem, programSealed := true } ∧
      (∀ k, k < s.cfg.progSize → t.mem.read (s.cfg.progBase + k) = im.byteAt k) ∧
      (∀ k, k < s.cfg.workSize → t.mem.read (s.cfg.workBase + k) = 0) ∧
      (∀ k, k < s.cfg.videoSize → t.mem.read (s.cfg.videoBase + k) = 0)

/-- R261: an image whose length is not PROG_SIZE is a LoadFailure with that length, by `load_program` and at emulator start; a
missing image is a LoadFailure at emulator start. -/
def Obligations.WrongImageLengthIsLoadFailure : Prop :=
  ∀ (s : State) (im : Image) (audio : Bool), im.length ≠ s.cfg.progSize →
    (s.programSealed = false → exec (.loadProgram im) s = .fault (.loadFailure im.length)) ∧
    powerOn s.cfg (some im) audio = .fault (.loadFailure im.length) ∧
    ∃ n, powerOn s.cfg none audio = .fault (.loadFailure n)

/-- R133, R139(c): no operation but the load at start-up changes a byte of the Program region. -/
def Obligations.ProgramRegionNeverChanges : Prop :=
  ∀ (i : Instr) (s t : State) (k : Nat), s.cfg.RegionsOk → Memory.wf s.mem → (∀ im, i ≠ .loadProgram im) →
    exec i s = .next t → k < s.cfg.progSize → t.mem.read (s.cfg.progBase + k) = s.mem.read (s.cfg.progBase + k)

/-- R70: no memory read, input port, shift register read or conversion changes any state: only its result goes out. -/
def Obligations.ReadsHaveNoSideEffect : Prop :=
  ∀ (s t : State) (addr : Addr) (n : Nat) (p : Port),
    ∀ i ∈ [Instr.readByte addr, .readBytes addr n, .regionProgram addr .read, .regionWorking addr .read,
        .regionVideo2400 addr .read, .regionVideo2800 addr .read, .regionVideo3000 addr .read, .inSystem, .inPlayer1,
        .inPlayer2, .inShiftResult, .inOther p, .srRead, .convert],
      exec i s = .next t → ∃ o, t = { s with trace := s.trace ++ [o] } ∧ exec i t = .next { t with trace := t.trace ++ [o] }

/-! ### Display converter -/

/-- R182, R183: `convert` completes, its frame has one pixel for each video bit, and video bit `(i, b)` decides the pixel at the
rotated coordinates; nothing changes. -/
def Obligations.ConvertPlacesEveryVideoBit : Prop :=
  ∀ s : State, s.cfg.GeometryOk → ∃ fr : Frame,
    exec .convert s = .next { s with trace := s.trace ++ [.converted fr] } ∧
    fr.length = s.cfg.fastLen * s.cfg.slowLen ∧ fr.length = 8 * s.cfg.videoSize ∧
    ∀ i b, i < s.cfg.videoSize → b < 8 →
      let p := 8 * i + b
      let f := p % s.cfg.fastLen
      let x := p / s.cfg.fastLen
      let y := s.cfg.fastLen - 1 - f
      fr[y * s.cfg.slowLen + x]? =
        some (if (s.mem.read (s.cfg.videoBase + i)).getLsbD b then s.cfg.pixelWhite else s.cfg.pixelBlack)

/-- R186: the map from video pixels to output pixels is a bijection of `[0, F×S)` onto itself, and the map from output pixels to
video pixels, which `convert` computes with, is its inverse. -/
def Obligations.PixelMapIsABijection : Prop :=
  ∀ c : Config, c.GeometryOk →
    (∀ p, p < c.fastLen * c.slowLen →
      destPixel c p < c.fastLen * c.slowLen ∧ sourcePixel c p < c.fastLen * c.slowLen ∧
      sourcePixel c (destPixel c p) = p ∧ destPixel c (sourcePixel c p) = p) ∧
    (∀ p p', p < c.fastLen * c.slowLen → p' < c.fastLen * c.slowLen → destPixel c p = destPixel c p' → p = p') ∧
    (∀ q, q < c.fastLen * c.slowLen → ∃ p, p < c.fastLen * c.slowLen ∧ destPixel c p = q)

/-- R186: the number of white pixels of a frame is the number of set bits of the Video region. -/
def Obligations.WhitePixelsCountTheSetBits : Prop :=
  ∀ (s t : State) (fr : Frame), s.cfg.GeometryOk → s.cfg.pixelWhite ≠ s.cfg.pixelBlack →
    exec .convert s = .next t → t.trace = s.trace ++ [.converted fr] →
    fr.count s.cfg.pixelWhite =
      ((List.range (8 * s.cfg.videoSize)).filter fun p => (s.mem.read (s.cfg.videoBase + p / 8)).getLsbD (p % 8)).length

/-- R185: the frame depends on nothing but the bytes of the Video region and the configuration. -/
def Obligations.ConvertDependsOnVideoOnly : Prop :=
  ∀ s t : State, s.cfg = t.cfg → s.cfg.GeometryOk →
    (∀ i, i < s.cfg.videoSize → s.mem.read (s.cfg.videoBase + i) = t.mem.read (t.cfg.videoBase + i)) →
    ∃ fr, exec .convert s = .next { s with trace := s.trace ++ [.converted fr] } ∧
      exec .convert t = .next { t with trace := t.trace ++ [.converted fr] }

/-! ### Scheduler -/

/-- R201, R202: an iteration whose engine step does nothing undefined completes; the clock and the pacing counters advance by
`cycles × NS_PER_CYCLE`, and the latches, the run flag and the configuration are as before, the lock too unless the thread was
in a publish, which no step's iteration is (log 22). -/
def Obligations.IterationAdvancesTheClock : Prop :=
  ∀ (s : State) (x : EngineAnswer), s.cfg.RegionsOk → (∀ op ∈ x.memOps, opDefined s.cfg op) →
    ∃ t, exec (.schedIteration x) s = .next t ∧
      t.emuClock = (s.emuClock + x.cycles * s.cfg.nsPerCycle) % 2 ^ s.cfg.clockBits ∧
      t.batchStepsDone = s.batchStepsDone + 1 ∧ t.batchNs = s.batchNs + x.cycles * s.cfg.nsPerCycle ∧
      t.cfg = s.cfg ∧ t.inLatch = s.inLatch ∧ t.run = s.run ∧ t.readerWaiting = s.readerWaiting ∧ t.lastRead = s.lastRead ∧
      ((∀ g, s.lock ≠ .heldByWriter g) → t.lock = s.lock) ∧
      t.requests = s.requests ∧ t.freeCount = s.freeCount ∧ t.programSealed = true ∧ ∃ os, t.trace = s.trace ++ os

/-- R140, R171, R201: the frame of an iteration. Every byte that no engine operation stores to reads as before; the shift
register, its amount and each sound latch change only by an output to its own port; beside these only the clock, the marks, the
counters, the mirror, the closing of the program store and the outputs change, and the lock only where the writer held it. -/
def Obligations.IterationFrame : Prop :=
  ∀ (s t : State) (x : EngineAnswer), Memory.wf s.mem → exec (.schedIteration x) s = .next t →
    (∀ a, (∀ op ∈ x.memOps, ¬ storesTo a op) → t.mem.read a = s.mem.read a) ∧
    ((∀ b, x.request ≠ .output s.cfg.portOutShiftData b) → t.srReg = s.srReg) ∧
    ((∀ b, x.request ≠ .output s.cfg.portOutShiftAmount b) → t.srAmount = s.srAmount) ∧
    ((∀ b, x.request ≠ .output s.cfg.portOutSoundA b) → t.prevA = s.prevA) ∧
    ((∀ b, x.request ≠ .output s.cfg.portOutSoundB b) → t.prevB = s.prevB) ∧
    ((∀ g, s.lock ≠ .heldByWriter g) → t.lock = s.lock) ∧
    t = { s with
      mem := t.mem, srReg := t.srReg, srAmount := t.srAmount, prevA := t.prevA, prevB := t.prevB, emuClock := t.emuClock
      nextScreen := t.nextScreen, nextDisplay := t.nextDisplay, batchStepsDone := t.batchStepsDone, batchNs := t.batchNs
      mirror := t.mirror, lock := t.lock, programSealed := t.programSealed, trace := t.trace }

/-- R204, R212: an iteration that reaches the end-of-frame mark advances that mark alone by one period, raises the end-of-frame
interrupt, converts the Video region as the step left it, publishes if the lock is free and drops the frame exactly where the
reader holds it, and requests a redraw in either case, in that order. From a publish of its own in progress, which no step's
iteration meets, it completes that one first (the model's choice, log 22). -/
def Obligations.EndOfFrameEventInOrder : Prop :=
  ∀ (s t : State) (x : EngineAnswer), exec (.schedIteration x) s = .next t →
    s.nextDisplay ≤ (s.emuClock + x.cycles * s.cfg.nsPerCycle) % 2 ^ s.cfg.clockBits →
    let f := convertVideo s.cfg (fun i => t.mem.read (s.cfg.videoBase + i))
    ∃ os, interruptVectors os = [] ∧ redraws os = 0 ∧ noPublish os ∧
      t.nextDisplay = (s.nextDisplay + s.cfg.framePeriodNs) % 2 ^ s.cfg.clockBits ∧ t.nextScreen = s.nextScreen ∧
      (s.lock = .free → t.mirror = f ∧ t.lock = .free ∧
        t.trace = s.trace ++ os ++ [.interrupt s.cfg.vecEof t.emuClock, .published f, .redraw]) ∧
      (s.lock = .heldByReader → t.mirror = s.mirror ∧ t.lock = .heldByReader ∧
        t.trace = s.trace ++ os ++ [.interrupt s.cfg.vecEof t.emuClock, .publishSkipped, .redraw]) ∧
      (∀ g, s.lock = .heldByWriter g → t.mirror = f ∧ t.lock = .free ∧
        t.trace = s.trace ++ os ++ [.interrupt s.cfg.vecEof t.emuClock, .published g, .published f, .redraw])

/-- R206: an iteration that reaches the mid-frame mark and not the end-of-frame mark advances the mid-frame mark alone by one
period and raises the mid-frame interrupt; no publish, not even a skipped one, and no redraw request. -/
def Obligations.MidFrameEventRaisesItsInterrupt : Prop :=
  ∀ (s t : State) (x : EngineAnswer), exec (.schedIteration x) s = .next t →
    let clock := (s.emuClock + x.cycles * s.cfg.nsPerCycle) % 2 ^ s.cfg.clockBits
    clock < s.nextDisplay → s.nextScreen ≤ clock →
    t.nextScreen = (s.nextScreen + s.cfg.framePeriodNs) % 2 ^ s.cfg.clockBits ∧ t.nextDisplay = s.nextDisplay ∧
    t.mirror = s.mirror ∧ t.lock = s.lock ∧
    ∃ os, interruptVectors os = [] ∧ redraws os = 0 ∧ noPublish os ∧
      t.trace = s.trace ++ os ++ [.interrupt s.cfg.vecMid t.emuClock]

/-- R201: an iteration that reaches no mark raises nothing, publishes nothing and skips no publish, and leaves the marks, the
mirror and the lock alone. -/
def Obligations.NoMarkReachedRaisesNothing : Prop :=
  ∀ (s t : State) (x : EngineAnswer), exec (.schedIteration x) s = .next t →
    let clock := (s.emuClock + x.cycles * s.cfg.nsPerCycle) % 2 ^ s.cfg.clockBits
    clock < s.nextDisplay → clock < s.nextScreen →
    t.nextScreen = s.nextScreen ∧ t.nextDisplay = s.nextDisplay ∧ t.mirror = s.mirror ∧ t.lock = s.lock ∧
    ∃ os, interruptVectors os = [] ∧ redraws os = 0 ∧ noPublish os ∧ t.trace = s.trace ++ os

/-- R207, R253: an iteration raises at most one interrupt; where both marks are reached it is the end-of-frame one, and the
mid-frame mark stays as it is. -/
def Obligations.AtMostOneInterruptAnIteration : Prop :=
  ∀ (s t : State) (x : EngineAnswer), exec (.schedIteration x) s = .next t →
    ∃ os, t.trace = s.trace ++ os ∧ (interruptVectors os).length ≤ 1 ∧
      (s.nextDisplay ≤ t.emuClock → s.nextScreen ≤ t.emuClock →
        interruptVectors os = [s.cfg.vecEof] ∧ t.nextScreen = s.nextScreen)

/-- R150, R203: the request that a step leaves pending is served in the same iteration by the operation its port selects, after
the clock update and before the frame event. -/
def Obligations.PendingRequestIsServedInItsIteration : Prop :=
  ∀ (s : State) (n : Nat) (p : Port) (b : Byte),
    let s1 := { s with
      emuClock := (s.emuClock + n * s.cfg.nsPerCycle) % 2 ^ s.cfg.clockBits,
      batchStepsDone := s.batchStepsDone + 1, batchNs := s.batchNs + n * s.cfg.nsPerCycle, programSealed := true }
    (∃ u, exec (outInstr s.cfg p b) s1 = .next u ∧ exec (.schedIteration ⟨n, [], .output p b⟩) s = .next u.frameEvent) ∧
    (∃ u, exec (inInstr s.cfg p) s1 = .next u ∧ exec (.schedIteration ⟨n, [], .input p⟩) s = .next u.frameEvent) ∧
    exec (.schedIteration ⟨n, [], .idle⟩) s = .next s1.frameEvent

/-- R140, R74: the engine's memory operations during a step are applied one at a time, in order, before everything else. -/
def Obligations.EngineMemoryOperationsInOrder : Prop :=
  ∀ (s : State) (op : MemOp) (x : EngineAnswer),
    exec (.schedIteration { x with memOps := op :: x.memOps }) s =
      match exec (memOpInstr op) { s with programSealed := true } with
      | .next u => exec (.schedIteration x) u
      | .fault r => .fault r
      | .refused r => .refused r

/-- R213: a batch is its iterations from cleared pacing counters; it completes where they do, and it does not read the run flag. -/
def Obligations.BatchIsItsIterations : Prop :=
  ∀ (s : State) (xs : List EngineAnswer),
    exec (.schedBatch xs) s = runOps (xs.map .schedIteration) { s with batchStepsDone := 0, batchNs := 0 } ∧
    (s.cfg.RegionsOk → (∀ x ∈ xs, ∀ op ∈ x.memOps, opDefined s.cfg op) →
      ∃ t, exec (.schedBatch xs) s = .next t ∧ t.batchStepsDone = xs.length ∧ t.batchNs = totalNs s.cfg xs ∧ t.run = s.run ∧
        exec (.schedBatch xs) { s with run := !s.run } = .next { t with run := !s.run })

/-- R209(c), R208: while both marks lie ahead of the clock and at most one period away, a step no longer than
`min(O, P − O)` reaches at most one of them, and the iteration that reaches it leaves both marks ahead again and less than the
step's duration behind the clock's new value. Premise: no wrap. -/
def Obligations.InPhaseIterationKeepsMarksAhead : Prop :=
  ∀ (s t : State) (x : EngineAnswer) (k : Nat),
    let P := s.cfg.framePeriodNs
    let O := s.cfg.midOffsetNs
    let d := x.cycles * s.cfg.nsPerCycle
    0 < O → O < P → d ≤ O → d ≤ P - O → s.emuClock + d + P < 2 ^ s.cfg.clockBits →
    s.emuClock < s.nextDisplay → s.emuClock < s.nextScreen →
    s.nextDisplay = (k + 1) * P → (s.nextScreen = (k + 1) * P - O ∨ s.nextScreen = (k + 2) * P - O) →
    k * P ≤ s.emuClock → (s.nextScreen = (k + 2) * P - O → (k + 1) * P - O ≤ s.emuClock) →
    exec (.schedIteration x) s = .next t →
    t.emuClock < t.nextDisplay ∧ t.emuClock < t.nextScreen ∧
    (s.nextDisplay ≤ t.emuClock → t.nextDisplay = (k + 2) * P ∧ t.nextScreen = (k + 2) * P - O ∧ t.emuClock < s.nextDisplay + d) ∧
    (s.nextScreen ≤ t.emuClock → t.nextDisplay = (k + 1) * P ∧ t.nextScreen = (k + 2) * P - O ∧ t.emuClock < s.nextScreen + d) ∧
    ¬ (s.nextDisplay ≤ t.emuClock ∧ s.nextScreen ≤ t.emuClock)

/-- R209(a), (b): the cadence law. From reset, with every step at most `min(O, P − O)` long and no wrap, the events alternate
strictly, a mid-frame one first, and at clock `c` the end-of-frame event has happened `c div P` times and the mid-frame event
`(c + O) div P` times. It rests on the clock's reset value 0, the model's choice (log 6). -/
def Obligations.InterruptCadenceAlternates : Prop :=
  ∀ (c : Config) (audio : Bool) (xs : List EngineAnswer) (t : State), c.Valid →
    (∀ x ∈ xs, x.cycles * c.nsPerCycle ≤ c.midOffsetNs ∧ x.cycles * c.nsPerCycle ≤ c.framePeriodNs - c.midOffsetNs) →
    totalNs c xs + c.framePeriodNs < 2 ^ c.clockBits →
    runOps (xs.map .schedIteration) (State.resetWith c audio) = .next t →
    t.emuClock = totalNs c xs ∧
    interruptVectors t.trace =
      (List.range (t.emuClock / c.framePeriodNs + (t.emuClock + c.midOffsetNs) / c.framePeriodNs)).map
        (fun n => if n % 2 = 0 then c.vecMid else c.vecEof) ∧
    (interruptVectors t.trace).count c.vecEof = t.emuClock / c.framePeriodNs ∧
    (interruptVectors t.trace).count c.vecMid = (t.emuClock + c.midOffsetNs) / c.framePeriodNs

/-- R200, R213, R215, R262, R271, with the order of moves as the model has it (logs 22, 23, 24, 30). The first part is a step with
no request queued: the thread completes the publish it is in; at its outer loop with the run flag clear it does nothing; with it
set it begins a batch; inside a batch it goes on without reading the flag. The second part is a step whose oldest request is an
operation of the emulation thread: a publish in progress is completed first, and before a batch the open batch; and the thread
that has ended, or never started, performs nothing: its request is dropped. The engine's answer is a free value: the statement
holds whatever it is. -/
def Obligations.EmulationThreadReadsRunFlagAtBatchBoundary : Prop :=
  ∀ s : State,
    let answer := Config.freeEngineAnswer s.freeCount
    let outerLoop := s.batchStepsDone = 0 ∨ s.cfg.batchSteps ≤ s.batchStepsDone
    let insideBatch := 0 < s.batchStepsDone ∧ s.batchStepsDone < s.cfg.batchSteps
    let noPublishOpen := ∀ f, s.lock ≠ .heldByWriter f
    (s.requests = [] →
      (∀ f, s.lock = .heldByWriter f →
        step s = .next { s with mirror := f, lock := .free, trace := s.trace ++ [.published f] }) ∧
      (noPublishOpen → outerLoop → s.run = false → step s = .next s) ∧
      (noPublishOpen → outerLoop → s.run = true →
        step s = exec (.schedIteration answer) { s with freeCount := s.freeCount + 1, batchStepsDone := 0, batchNs := 0 }) ∧
      (noPublishOpen → insideBatch → step s = exec (.schedIteration answer) { s with freeCount := s.freeCount + 1 })) ∧
    (∀ (r : Request) (rest : List Request) (i : Instr), s.requests = r :: rest → decode s.cfg r = .ok i →
      i.wf s.cfg = true → agentOf i = .emulation →
      (∀ f, s.lock = .heldByWriter f → isFinish i = false →
        step s = .next { s with mirror := f, lock := .free, trace := s.trace ++ [.published f] }) ∧
      (noPublishOpen → isBatch i = true → insideBatch →
        step s = exec (.schedIteration answer) { s with freeCount := s.freeCount + 1 }) ∧
      (noPublishOpen → outerLoop → s.run = false → step s = .next { s with requests := rest }))

/-! ### Bridge -/

/-- R231: a publish writes the mirror where the lock is free and is skipped where the reader holds it; the lock is as before, and
it completes in either case. The scheduler's frame is the conversion of the Video region. -/
def Obligations.PublishWritesMirrorOrSkips : Prop :=
  ∀ (s : State) (src : FrameSource),
    let f := match src with
      | .fresh => convertVideo s.cfg (fun i => s.mem.read (s.cfg.videoBase + i))
      | .given g => g
    (s.lock = .free → exec (.publish src .whole) s = .next { s with mirror := f, trace := s.trace ++ [.published f] }) ∧
    (s.lock = .heldByReader → exec (.publish src .whole) s = .next { s with trace := s.trace ++ [.publishSkipped] })

/-- R231's interleaving as the model runs it (log 22): the try-acquire takes a free lock with its frame and is skipped where the
reader holds it; the rest writes that frame and frees the lock, and has nothing to do where no publish is in progress. A publish
begun while one is in progress completes that one first (R290). The two parts in a row are a publish, from every state. -/
def Obligations.PublishPartsMakeAPublish : Prop :=
  ∀ (s : State) (src : FrameSource),
    let f := match src with
      | .fresh => convertVideo s.cfg (fun i => s.mem.read (s.cfg.videoBase + i))
      | .given g => g
    (s.lock = .free → exec (.publish src .acquire) s = .next { s with lock := .heldByWriter f }) ∧
    (s.lock = .heldByReader → exec (.publish src .acquire) s = .next { s with trace := s.trace ++ [.publishSkipped] }) ∧
    (∀ g, s.lock = .heldByWriter g →
      exec (.publish src .finish) s = .next { s with mirror := g, lock := .free, trace := s.trace ++ [.published g] } ∧
      exec (.publish src .acquire) s =
        .next { s with mirror := g, lock := .heldByWriter f, trace := s.trace ++ [.published g] } ∧
      exec (.publish src .whole) s =
        .next { s with mirror := f, lock := .free, trace := s.trace ++ [.published g, .published f] }) ∧
    ((∀ g, s.lock ≠ .heldByWriter g) → exec (.publish src .finish) s = .next s) ∧
    runOps [.publish src .acquire, .publish src .finish] s = exec (.publish src .whole) s

/-- R232: a `read_frame` acquires a free lock, returns the mirror and frees the lock; where the writer holds the lock it waits:
nothing changes but the model's own waiting bit. A read in two parts holds the lock in between. R103, R241 as the model has them
(log 31): presenting hands the host the frame read last, of the read that holds the lock where one does, and changes nothing else.
The last part is R290 for the presentation thread as the model runs it (log 22): another operation of that thread, presenting
included, comes after the read in progress, and a read that waits stays queued while the emulation thread completes its publish. -/
def Obligations.ReadFrameReturnsMirrorUnderLock : Prop :=
  ∀ s : State,
    (s.lock = .free →
      exec (.readFrame .complete) s = .next { s with
        readerWaiting := false, lastRead := some s.mirror, trace := s.trace ++ [.frameRead s.mirror] } ∧
      exec (.readFrame .acquire) s = .next { s with lock := .heldByReader, readerWaiting := false }) ∧
    (s.lock = .heldByReader →
      exec (.readFrame .complete) s = .next { s with
        lock := .free, lastRead := some s.mirror, trace := s.trace ++ [.frameRead s.mirror] } ∧
      exec (.readFrame .acquire) s = .next s ∧
      exec (.readFrame .present) s = .next { s with
        lock := .free, lastRead := some s.mirror, trace := s.trace ++ [.frameRead s.mirror, .presented s.mirror] }) ∧
    (∀ g, s.lock = .heldByWriter g →
      exec (.readFrame .complete) s = .next { s with readerWaiting := true } ∧
      exec (.readFrame .acquire) s = .next { s with readerWaiting := true }) ∧
    (s.lock ≠ .heldByReader →
      (∀ f, s.lastRead = some f → exec (.readFrame .present) s = .next { s with trace := s.trace ++ [.presented f] }) ∧
      (s.lastRead = none → exec (.readFrame .present) s = .next s)) ∧
    (∀ (r : Request) (rest : List Request) (i : Instr), s.requests = r :: rest → decode s.cfg r = .ok i →
      i.wf s.cfg = true → agentOf i = .presentation →
      (s.lock = .heldByReader → isRead i = false →
        step s = .next { s with
          lock := .free, lastRead := some s.mirror, trace := s.trace ++ [.frameRead s.mirror] }) ∧
      (s.lock = .free → s.readerWaiting = true → isRead i = false →
        step s = .next { s with lock := .heldByReader, readerWaiting := false }) ∧
      (∀ g, s.lock = .heldByWriter g → (isRead i = true ∨ s.readerWaiting = true) →
        step s = .next { s with mirror := g, lock := .free, readerWaiting := true, trace := s.trace ++ [.published g] }))

/-- R233: over any run of operations the mirror is the frame of the last publish that was not skipped, or what it was at first,
and every frame read is what the mirror was when it was read: whole frames, in publish order. Every frame presented (R241; log 31)
is the one read last before it. -/
def Obligations.FramesReadAreWholePublishedFrames : Prop :=
  ∀ (ops : List Instr) (s t : State), runOps ops s = .next t →
    ∃ os, t.trace = s.trace ++ os ∧ t.mirror = mirrorAfter s.mirror os ∧ t.lastRead = lastReadAfter s.lastRead os ∧
      (∀ before f after, os = before ++ [.frameRead f] ++ after → f = mirrorAfter s.mirror before) ∧
      ∀ before f after, os = before ++ [.presented f] ++ after → some f = lastReadAfter s.lastRead before

/-- R234: what the emulation thread does to its own state is the same whether its publishes succeed or are skipped. Take any
run of iterations, batches and moves of a reader between them, however long the reader holds the lock; take the reader's moves
out, and start from a state that differs at most in the mirror, the lock, the waiting bit, the last read and the outputs made: the
run still completes, and the two end states differ at most in those again. -/
def Obligations.SkippedPublishLeavesEmulationUnaffected : Prop :=
  ∀ (ops : List Instr) (s s' t : State), (∀ i ∈ ops, isScheduler i = true ∨ ∃ part, i = .readFrame part) →
    equalButMirror s s' → runOps ops s = .next t →
    ∃ t', runOps (ops.filter isScheduler) s' = .next t' ∧ equalButMirror t t'

/-- R237, R238: a latch update sets or clears its bit where it is free, leaves a fixed bit and every other bit of the three
latches alone, and changes nothing else. -/
def Obligations.LatchUpdatesChangeOneFreeBit : Prop :=
  ∀ (s : State) (l : Latch) (k : Fin 8), ∃ up down : LatchBytes,
    exec (.latchSet l k) s = .next { s with inLatch := up } ∧
    exec (.latchClear l k) s = .next { s with inLatch := down } ∧
    ∀ (l' : Latch) (j : Nat), j < 8 →
      (up.get l').getLsbD j =
        (if l' = l ∧ j = k.val ∧ (s.cfg.fixedMask.get l).getLsbD k.val = false then true else (s.inLatch.get l').getLsbD j) ∧
      (down.get l').getLsbD j =
        (if l' = l ∧ j = k.val ∧ (s.cfg.fixedMask.get l).getLsbD k.val = false then false else (s.inLatch.get l').getLsbD j)

/-- R240: `run_clear` clears the run flag and changes nothing else. -/
def Obligations.RunClearClearsOnlyTheFlag : Prop :=
  ∀ s : State, exec .runClear s = .next { s with run := false }

/-- R37: once clear, the run flag is never set again by any step. R215, R262, R271: where the emulation thread is at its outer loop
with the flag clear and in no publish, a step changes nothing but the latches, the lock, the waiting bit, the frame read and the
queue, its only outputs are frames read and presented, and nothing wakes the thread; the load at start-up may still fill memory
and close the store. -/
def Obligations.ClearedRunFlagStaysClear : Prop :=
  ∀ s t : State, step s = .next t → s.run = false →
    t.run = false ∧
    ((s.batchStepsDone = 0 ∨ s.cfg.batchSteps ≤ s.batchStepsDone) → (∀ f, s.lock ≠ .heldByWriter f) →
      (∀ f, t.lock ≠ .heldByWriter f) ∧ (s.programSealed = true → t.mem = s.mem ∧ t.programSealed = true) ∧
      ∃ os, (∀ o ∈ os, ∃ f, o = .frameRead f ∨ o = .presented f) ∧
        t = { s with
          mem := t.mem, programSealed := t.programSealed, inLatch := t.inLatch, lock := t.lock
          readerWaiting := t.readerWaiting, lastRead := t.lastRead, requests := t.requests, trace := s.trace ++ os })

/-! ### Ownership over all operations -/

/-- R26, R266: no operation of the emulation thread or of start-up changes an input latch or the run flag, or makes a read wait or
end. -/
def Obligations.OnlyPresentationWritesLatchesAndRunFlag : Prop :=
  ∀ (i : Instr) (s t : State), agentOf i ≠ .presentation → exec i s = .next t → t.inLatch = s.inLatch ∧ t.run = s.run ∧
    t.readerWaiting = s.readerWaiting ∧ t.lastRead = s.lastRead

/-- R266: an operation of the presentation thread changes nothing but the latches, the run flag, the lock with its waiting bit,
the frame it has read, and the outputs: not memory, the shift register, the sound latches, the clock or the mirror. -/
def Obligations.PresentationTouchesOnlyTheBridge : Prop :=
  ∀ (i : Instr) (s t : State), agentOf i = .presentation → exec i s = .next t →
    t = { s with
      inLatch := t.inLatch, run := t.run, lock := t.lock, readerWaiting := t.readerWaiting, lastRead := t.lastRead
      trace := t.trace }

/-- R266, R267: only the scheduler's operations change the clock, the marks and the pacing counters. -/
def Obligations.OnlySchedulerWritesTheClock : Prop :=
  ∀ (i : Instr) (s t : State), isScheduler i = false → exec i s = .next t →
    t.emuClock = s.emuClock ∧ t.nextScreen = s.nextScreen ∧ t.nextDisplay = s.nextDisplay ∧
    t.batchStepsDone = s.batchStepsDone ∧ t.batchNs = s.batchNs

/-- R23, R24, R122, R171: outside the scheduler only a feed changes the shift register and only an amount write its amount, and
only the two sound ports change the sound latches. -/
def Obligations.ShiftAndSoundStateHaveOneWriterEach : Prop :=
  ∀ (i : Instr) (s t : State), isScheduler i = false → exec i s = .next t →
    (fedByte i = none → t.srReg = s.srReg) ∧ (amountByte i = none → t.srAmount = s.srAmount) ∧
    ((∀ b, i ≠ .outSoundBankA b) → t.prevA = s.prevA) ∧ ((∀ b, i ≠ .outSoundBankB b) → t.prevB = s.prevB)

/-! ### Reset, steps and encodings -/

/-- R41, the values it gives: shift register and sound latches zero, Working and Video zero, the marks one period and one period
less the offset after the clock, a mirror of the frame's size (R36), the run flag by the audio backend. The amount, the latches,
the clock's 0 and the lock are the spec's own decisions (log 4, 5, 6, 7). It is the whole of emulator start with an image. -/
def Obligations.ResetValues : Prop :=
  ∀ (c : Config) (audio : Bool) (im : Image), c.RegionsOk → im.WF → im.length = c.progSize →
    ∃ t, powerOn c (some im) audio = .next t ∧
      t.srReg = 0 ∧ t.srAmount = 0 ∧ t.prevA = 0 ∧ t.prevB = 0 ∧ t.inLatch = c.fixedValue ∧
      t.emuClock = 0 ∧ t.mirror.length = c.pixels ∧
      t.nextDisplay = t.emuClock + c.framePeriodNs ∧ t.nextScreen = t.emuClock + (c.framePeriodNs - c.midOffsetNs) ∧
      t.lock = .free ∧ t.run = audio ∧ t.batchStepsDone = 0 ∧ t.batchNs = 0 ∧
      (∀ k, k < c.progSize → t.mem.read (c.progBase + k) = im.byteAt k) ∧
      (∀ k, k < c.workSize → t.mem.read (c.workBase + k) = 0) ∧
      (∀ k, k < c.videoSize → t.mem.read (c.videoBase + k) = 0)

/-- The reset state meets the invariant, under every valid configuration. -/
def Obligations.InvariantHoldsAtReset : Prop :=
  Inv State.reset ∧ ∀ (c : Config) (audio : Bool), c.Valid → Inv (State.resetWith c audio)

/-- Every step keeps the invariant: valid configuration, canonical memory inside the regions, fixed latch bits, clock values that
fit, a mirror, a frame being published and a frame read of the frame's size, a waiting reader that does not hold the lock. -/
def Obligations.EveryStepKeepsTheInvariant : Prop :=
  ∀ s t : State, Inv s → step s = .next t → Inv t

/-- No step changes the configuration, and every step only adds outputs (R13, R17). -/
def Obligations.StepsKeepConfigurationAndHistory : Prop :=
  ∀ s t : State, step s = .next t → t.cfg = s.cfg ∧ ∃ os, t.trace = s.trace ++ os

/-- Model's choice (logs 1 and 24): requests wait in a queue and a step performs the operation that the oldest one decodes to, on
the state with that request removed. An operation of the emulation thread is performed where that thread exists (R215), is in no
publish that it has to complete first and, for a batch, in no open batch (R290; log 22); the program store is then closed
(log 17), and an iteration at the outer loop begins a batch (log 30). An operation of the presentation thread is performed where
that thread is in no read and, for a read, the writer does not hold the lock. EmulationThreadReadsRunFlagAtBatchBoundary and
ReadFrameReturnsMirrorUnderLock say what a step does otherwise. Bytes that decode to no operation or to an ill-formed one are
refused. -/
def Obligations.StepRunsTheDecodedRequest : Prop :=
  ∀ (s : State) (r : Request) (rest : List Request), s.requests = r :: rest →
    let outerLoop := s.batchStepsDone = 0 ∨ s.cfg.batchSteps ≤ s.batchStepsDone
    (∀ i, decode s.cfg r = .ok i → i.wf s.cfg = true →
      (agentOf i = .startUp → step s = exec i { s with requests := rest }) ∧
      (agentOf i = .presentation → (isRead i = true → ∀ g, s.lock ≠ .heldByWriter g) →
        (isRead i = false → s.lock ≠ .heldByReader ∧ s.readerWaiting = false) →
        step s = exec i { s with requests := rest }) ∧
      (agentOf i = .emulation →
        (((∀ g, s.lock ≠ .heldByWriter g) ∧ (s.run = true ∨ ¬ outerLoop) ∧ (isBatch i = true → outerLoop)) ∨
          (isFinish i = true ∧ ∃ g, s.lock = .heldByWriter g)) →
        step s = exec i { s with
          requests := rest, programSealed := true
          batchStepsDone := if isIteration i = true ∧ outerLoop then 0 else s.batchStepsDone
          batchNs := if isIteration i = true ∧ outerLoop then 0 else s.batchNs })) ∧
    (∀ i, decode s.cfg r = .ok i → i.wf s.cfg = false → step s = .refused .illFormed) ∧
    (∀ e, decode s.cfg r = .error e → step s = .refused (.undecodable e))

/-- Decoding an encoded well-formed operation gives it back, for all 32 operations, every operand (a port is any natural number)
and every configuration whose ports are distinct. The operand format is the model's own (log 1), and so is the selector of a port
above 255 (log 21). -/
def Obligations.DecodeOfEncodeIsTheOperation : Prop :=
  ∀ (c : Config) (i : Instr), c.PortsOk → i.wf c = true → decode c (encode c i) = .ok i

/-- Requests whose selectors are words of the spec (R91, R93 to R95, R105) decode to their operations, and an id that rule R105
does not list decodes to none. The byte order, the access tag and the operand bytes are the model's format (log 1); the port
numbers and the regions are those of the recommended configuration (log 2). -/
def Obligations.SpecWordsDecode : Prop :=
  decode Config.recommended ⟨.io, [0x04, 0x01, 0xAA]⟩ = .ok (.outShiftData 0xAA) ∧
  decode Config.recommended ⟨.io, [0x02, 0x01, 0x07]⟩ = .ok (.outShiftAmount 0x07) ∧
  decode Config.recommended ⟨.io, [0x03, 0x00]⟩ = .ok .inShiftResult ∧
  decode Config.recommended ⟨.io, [0x09, 0x00]⟩ = .ok (.inOther 9) ∧
  decode Config.recommended ⟨.mem, [0x00, 0xE4, 0x01, 0x81]⟩ = .ok (.regionVideo2400 0xE400 (.write 0x81)) ∧
  decode Config.recommended ⟨.op, [0x34]⟩ = .ok .runClear ∧
  decode Config.recommended ⟨.op, [0x00]⟩ = .error .noSuchOperation
end

