-- ==== Sys2Proof/Laws/Codec.lean ====
section
/-! SUPPORT. Reading back what was written: the primitive operand formats and the selector of an I/O request. -/

namespace Sys2Proof

@[simp] theorem andThen_ok {α β : Type} (x : α) (bs : List Byte) (f : α → List Byte → Parsed β) :
    Parsed.andThen (.ok (x, bs)) f = f x bs := rfl

@[simp] theorem parseByte_cons (b : Byte) (bs : List Byte) : parseByte (b :: bs) = .ok (b, bs) := rfl

theorem parseAddr_encode (a : Addr) (bs : List Byte) : parseAddr (encodeAddr a ++ bs) = .ok (a, bs) := by
  have h : a.extractLsb' 8 8 ++ a.setWidth 8 = a := by
    apply BitVec.eq_of_toNat_eq
    simp only [BitVec.toNat_append, BitVec.extractLsb'_toNat, BitVec.toNat_setWidth]
    rw [← Nat.shiftLeft_add_eq_or_of_lt (by omega)]
    simp only [Nat.shiftLeft_eq, Nat.shiftRight_eq_div_pow]
    omega
  simp [parseAddr, encodeAddr, h]

theorem parseNat_encodeFuel (fuel n : Nat) (h : n ≤ fuel) (bs : List Byte) :
    parseNat (encodeNatFuel fuel n ++ bs) = .ok (n, bs) := by
  induction fuel generalizing n with
  | zero =>
    obtain rfl : n = 0 := by omega
    simp [encodeNatFuel, parseNat]
  | succ fuel ih =>
    rw [encodeNatFuel]
    split
    · rename_i hn
      have e : n % 256 = n := Nat.mod_eq_of_lt (by omega)
      simp [parseNat, e, hn]
    · rename_i hn
      have e : (128 + n % 128) % 256 = 128 + n % 128 := Nat.mod_eq_of_lt (by omega)
      simp only [List.cons_append, parseNat, BitVec.toNat_ofNat]
      rw [show 2 ^ 8 = 256 from rfl, e, if_neg (by omega), ih (n / 128) (by omega), andThen_ok]
      congr 2
      omega

/-- A number reads back. -/
theorem parseNat_encode (n : Nat) (bs : List Byte) : parseNat (encodeNat n ++ bs) = .ok (n, bs) :=
  parseNat_encodeFuel n n (Nat.le_refl n) bs

/-- Items read back if each does. -/
theorem parseMany_encode {α : Type} {parse : List Byte → Parsed α} {item : α → List Byte} (xs : List α)
    (h : ∀ x ∈ xs, ∀ bs, parse (item x ++ bs) = .ok (x, bs)) (bs : List Byte) :
    parseMany parse xs.length (xs.flatMap item ++ bs) = .ok (xs, bs) := by
  induction xs with
  | nil => rfl
  | cons x xs ih =>
    simp only [List.length_cons, parseMany, List.flatMap_cons, List.append_assoc]
    rw [h x (by simp), andThen_ok, ih fun y hy => h y (by simp [hy])]
    rfl

/-- A counted list reads back if each item does. -/
theorem parseList_encode {α : Type} {parse : List Byte → Parsed α} {item : α → List Byte} (xs : List α)
    (h : ∀ x ∈ xs, ∀ bs, parse (item x ++ bs) = .ok (x, bs)) (bs : List Byte) :
    parseList parse (encodeList item xs ++ bs) = .ok (xs, bs) := by
  rw [parseList, encodeList, List.append_assoc, parseNat_encode, andThen_ok, parseMany_encode xs h]

/-- The selector of an I/O request reads back, for every port number. -/
theorem parseSelector_encode (d : Direction) (port : Nat) (bs : List Byte) :
    parseSelector (encodeSelector d port ++ bs) = .ok ((d, port), bs) := by
  unfold encodeSelector
  split
  · have e : port % 256 = port := Nat.mod_eq_of_lt ‹_›
    cases d <;> simp [parseSelector, parsePort, Direction.bit, e]
  · have hi : ¬ port / 256 = 0 := by omega
    have e : 256 * (port / 256) + port % 256 = port := Nat.div_add_mod port 256
    cases d <;> simp [parseSelector, parsePort, Direction.bit, parseNat_encode, hi, e]

/-- An output request decodes to the operation that its port selects. -/
theorem decode_outRequest (c : Config) (port : Port) (byte : Byte) :
    decode c (outRequest port byte) = .ok (outInstr c port byte) := by
  simp [decode, outRequest, parseIo, parseSelector_encode, finishParse]

/-- An input request decodes to the operation that its port selects. -/
theorem decode_inRequest (c : Config) (port : Port) : decode c (inRequest port) = .ok (inInstr c port) := by
  have h := parseSelector_encode .input port []
  rw [List.append_nil] at h
  simp [decode, inRequest, parseIo, h, finishParse]

end Sys2Proof
end

