-- ==== Sys2Proof/Laws/State.lean ====
section
/-! SUPPORT. What each update of the state does to each field, one lemma for each field and update, true by rfl: no later
proof unfolds an update. -/

namespace Sys2Proof.Machine.State

/-! ### `emit` -/
@[simp] theorem emit_cfg (s : State) (os : List Output) : (s.emit os).cfg = s.cfg := rfl
@[simp] theorem emit_srReg (s : State) (os : List Output) : (s.emit os).srReg = s.srReg := rfl
@[simp] theorem emit_srAmount (s : State) (os : List Output) : (s.emit os).srAmount = s.srAmount := rfl
@[simp] theorem emit_mem (s : State) (os : List Output) : (s.emit os).mem = s.mem := rfl
@[simp] theorem emit_inLatch (s : State) (os : List Output) : (s.emit os).inLatch = s.inLatch := rfl
@[simp] theorem emit_prevA (s : State) (os : List Output) : (s.emit os).prevA = s.prevA := rfl
@[simp] theorem emit_prevB (s : State) (os : List Output) : (s.emit os).prevB = s.prevB := rfl
@[simp] theorem emit_emuClock (s : State) (os : List Output) : (s.emit os).emuClock = s.emuClock := rfl
@[simp] theorem emit_nextScreen (s : State) (os : List Output) : (s.emit os).nextScreen = s.nextScreen := rfl
@[simp] theorem emit_nextDisplay (s : State) (os : List Output) : (s.emit os).nextDisplay = s.nextDisplay := rfl
@[simp] theorem emit_batchStepsDone (s : State) (os : List Output) : (s.emit os).batchStepsDone = s.batchStepsDone := rfl
@[simp] theorem emit_batchNs (s : State) (os : List Output) : (s.emit os).batchNs = s.batchNs := rfl
@[simp] theorem emit_mirror (s : State) (os : List Output) : (s.emit os).mirror = s.mirror := rfl
@[simp] theorem emit_lock (s : State) (os : List Output) : (s.emit os).lock = s.lock := rfl
@[simp] theorem emit_readerWaiting (s : State) (os : List Output) : (s.emit os).readerWaiting = s.readerWaiting := rfl
@[simp] theorem emit_lastRead (s : State) (os : List Output) : (s.emit os).lastRead = s.lastRead := rfl
@[simp] theorem emit_run (s : State) (os : List Output) : (s.emit os).run = s.run := rfl
@[simp] theorem emit_programSealed (s : State) (os : List Output) : (s.emit os).programSealed = s.programSealed := rfl
@[simp] theorem emit_trace (s : State) (os : List Output) : (s.emit os).trace = s.trace ++ os := rfl
@[simp] theorem emit_requests (s : State) (os : List Output) : (s.emit os).requests = s.requests := rfl
@[simp] theorem emit_freeCount (s : State) (os : List Output) : (s.emit os).freeCount = s.freeCount := rfl

/-! ### `setReg` -/
@[simp] theorem setReg_cfg (s : State) (r : BitVec 16) : (s.setReg r).cfg = s.cfg := rfl
@[simp] theorem setReg_srReg (s : State) (r : BitVec 16) : (s.setReg r).srReg = r := rfl
@[simp] theorem setReg_srAmount (s : State) (r : BitVec 16) : (s.setReg r).srAmount = s.srAmount := rfl
@[simp] theorem setReg_mem (s : State) (r : BitVec 16) : (s.setReg r).mem = s.mem := rfl
@[simp] theorem setReg_inLatch (s : State) (r : BitVec 16) : (s.setReg r).inLatch = s.inLatch := rfl
@[simp] theorem setReg_prevA (s : State) (r : BitVec 16) : (s.setReg r).prevA = s.prevA := rfl
@[simp] theorem setReg_prevB (s : State) (r : BitVec 16) : (s.setReg r).prevB = s.prevB := rfl
@[simp] theorem setReg_emuClock (s : State) (r : BitVec 16) : (s.setReg r).emuClock = s.emuClock := rfl
@[simp] theorem setReg_nextScreen (s : State) (r : BitVec 16) : (s.setReg r).nextScreen = s.nextScreen := rfl
@[simp] theorem setReg_nextDisplay (s : State) (r : BitVec 16) : (s.setReg r).nextDisplay = s.nextDisplay := rfl
@[simp] theorem setReg_batchStepsDone (s : State) (r : BitVec 16) : (s.setReg r).batchStepsDone = s.batchStepsDone := rfl
@[simp] theorem setReg_batchNs (s : State) (r : BitVec 16) : (s.setReg r).batchNs = s.batchNs := rfl
@[simp] theorem setReg_mirror (s : State) (r : BitVec 16) : (s.setReg r).mirror = s.mirror := rfl
@[simp] theorem setReg_lock (s : State) (r : BitVec 16) : (s.setReg r).lock = s.lock := rfl
@[simp] theorem setReg_readerWaiting (s : State) (r : BitVec 16) : (s.setReg r).readerWaiting = s.readerWaiting := rfl
@[simp] theorem setReg_lastRead (s : State) (r : BitVec 16) : (s.setReg r).lastRead = s.lastRead := rfl
@[simp] theorem setReg_run (s : State) (r : BitVec 16) : (s.setReg r).run = s.run := rfl
@[simp] theorem setReg_programSealed (s : State) (r : BitVec 16) : (s.setReg r).programSealed = s.programSealed := rfl
@[simp] theorem setReg_trace (s : State) (r : BitVec 16) : (s.setReg r).trace = s.trace := rfl
@[simp] theorem setReg_requests (s : State) (r : BitVec 16) : (s.setReg r).requests = s.requests := rfl
@[simp] theorem setReg_freeCount (s : State) (r : BitVec 16) : (s.setReg r).freeCount = s.freeCount := rfl

/-! ### `setAmount` -/
@[simp] theorem setAmount_cfg (s : State) (n : BitVec 3) : (s.setAmount n).cfg = s.cfg := rfl
@[simp] theorem setAmount_srReg (s : State) (n : BitVec 3) : (s.setAmount n).srReg = s.srReg := rfl
@[simp] theorem setAmount_srAmount (s : State) (n : BitVec 3) : (s.setAmount n).srAmount = n := rfl
@[simp] theorem setAmount_mem (s : State) (n : BitVec 3) : (s.setAmount n).mem = s.mem := rfl
@[simp] theorem setAmount_inLatch (s : State) (n : BitVec 3) : (s.setAmount n).inLatch = s.inLatch := rfl
@[simp] theorem setAmount_prevA (s : State) (n : BitVec 3) : (s.setAmount n).prevA = s.prevA := rfl
@[simp] theorem setAmount_prevB (s : State) (n : BitVec 3) : (s.setAmount n).prevB = s.prevB := rfl
@[simp] theorem setAmount_emuClock (s : State) (n : BitVec 3) : (s.setAmount n).emuClock = s.emuClock := rfl
@[simp] theorem setAmount_nextScreen (s : State) (n : BitVec 3) : (s.setAmount n).nextScreen = s.nextScreen := rfl
@[simp] theorem setAmount_nextDisplay (s : State) (n : BitVec 3) : (s.setAmount n).nextDisplay = s.nextDisplay := rfl
@[simp] theorem setAmount_batchStepsDone (s : State) (n : BitVec 3) : (s.setAmount n).batchStepsDone = s.batchStepsDone := rfl
@[simp] theorem setAmount_batchNs (s : State) (n : BitVec 3) : (s.setAmount n).batchNs = s.batchNs := rfl
@[simp] theorem setAmount_mirror (s : State) (n : BitVec 3) : (s.setAmount n).mirror = s.mirror := rfl
@[simp] theorem setAmount_lock (s : State) (n : BitVec 3) : (s.setAmount n).lock = s.lock := rfl
@[simp] theorem setAmount_readerWaiting (s : State) (n : BitVec 3) : (s.setAmount n).readerWaiting = s.readerWaiting := rfl
@[simp] theorem setAmount_lastRead (s : State) (n : BitVec 3) : (s.setAmount n).lastRead = s.lastRead := rfl
@[simp] theorem setAmount_run (s : State) (n : BitVec 3) : (s.setAmount n).run = s.run := rfl
@[simp] theorem setAmount_programSealed (s : State) (n : BitVec 3) : (s.setAmount n).programSealed = s.programSealed := rfl
@[simp] theorem setAmount_trace (s : State) (n : BitVec 3) : (s.setAmount n).trace = s.trace := rfl
@[simp] theorem setAmount_requests (s : State) (n : BitVec 3) : (s.setAmount n).requests = s.requests := rfl
@[simp] theorem setAmount_freeCount (s : State) (n : BitVec 3) : (s.setAmount n).freeCount = s.freeCount := rfl

/-! ### `setMem` -/
@[simp] theorem setMem_cfg (s : State) (m : Memory) : (s.setMem m).cfg = s.cfg := rfl
@[simp] theorem setMem_srReg (s : State) (m : Memory) : (s.setMem m).srReg = s.srReg := rfl
@[simp] theorem setMem_srAmount (s : State) (m : Memory) : (s.setMem m).srAmount = s.srAmount := rfl
@[simp] theorem setMem_mem (s : State) (m : Memory) : (s.setMem m).mem = m := rfl
@[simp] theorem setMem_inLatch (s : State) (m : Memory) : (s.setMem m).inLatch = s.inLatch := rfl
@[simp] theorem setMem_prevA (s : State) (m : Memory) : (s.setMem m).prevA = s.prevA := rfl
@[simp] theorem setMem_prevB (s : State) (m : Memory) : (s.setMem m).prevB = s.prevB := rfl
@[simp] theorem setMem_emuClock (s : State) (m : Memory) : (s.setMem m).emuClock = s.emuClock := rfl
@[simp] theorem setMem_nextScreen (s : State) (m : Memory) : (s.setMem m).nextScreen = s.nextScreen := rfl
@[simp] theorem setMem_nextDisplay (s : State) (m : Memory) : (s.setMem m).nextDisplay = s.nextDisplay := rfl
@[simp] theorem setMem_batchStepsDone (s : State) (m : Memory) : (s.setMem m).batchStepsDone = s.batchStepsDone := rfl
@[simp] theorem setMem_batchNs (s : State) (m : Memory) : (s.setMem m).batchNs = s.batchNs := rfl
@[simp] theorem setMem_mirror (s : State) (m : Memory) : (s.setMem m).mirror = s.mirror := rfl
@[simp] theorem setMem_lock (s : State) (m : Memory) : (s.setMem m).lock = s.lock := rfl
@[simp] theorem setMem_readerWaiting (s : State) (m : Memory) : (s.setMem m).readerWaiting = s.readerWaiting := rfl
@[simp] theorem setMem_lastRead (s : State) (m : Memory) : (s.setMem m).lastRead = s.lastRead := rfl
@[simp] theorem setMem_run (s : State) (m : Memory) : (s.setMem m).run = s.run := rfl
@[simp] theorem setMem_programSealed (s : State) (m : Memory) : (s.setMem m).programSealed = s.programSealed := rfl
@[simp] theorem setMem_trace (s : State) (m : Memory) : (s.setMem m).trace = s.trace := rfl
@[simp] theorem setMem_requests (s : State) (m : Memory) : (s.setMem m).requests = s.requests := rfl
@[simp] theorem setMem_freeCount (s : State) (m : Memory) : (s.setMem m).freeCount = s.freeCount := rfl

/-! ### `setLatches` -/
@[simp] theorem setLatches_cfg (s : State) (l : LatchBytes) : (s.setLatches l).cfg = s.cfg := rfl
@[simp] theorem setLatches_srReg (s : State) (l : LatchBytes) : (s.setLatches l).srReg = s.srReg := rfl
@[simp] theorem setLatches_srAmount (s : State) (l : LatchBytes) : (s.setLatches l).srAmount = s.srAmount := rfl
@[simp] theorem setLatches_mem (s : State) (l : LatchBytes) : (s.setLatches l).mem = s.mem := rfl
@[simp] theorem setLatches_inLatch (s : State) (l : LatchBytes) : (s.setLatches l).inLatch = l := rfl
@[simp] theorem setLatches_prevA (s : State) (l : LatchBytes) : (s.setLatches l).prevA = s.prevA := rfl
@[simp] theorem setLatches_prevB (s : State) (l : LatchBytes) : (s.setLatches l).prevB = s.prevB := rfl
@[simp] theorem setLatches_emuClock (s : State) (l : LatchBytes) : (s.setLatches l).emuClock = s.emuClock := rfl
@[simp] theorem setLatches_nextScreen (s : State) (l : LatchBytes) : (s.setLatches l).nextScreen = s.nextScreen := rfl
@[simp] theorem setLatches_nextDisplay (s : State) (l : LatchBytes) : (s.setLatches l).nextDisplay = s.nextDisplay := rfl
@[simp] theorem setLatches_batchStepsDone (s : State) (l : LatchBytes) : (s.setLatches l).batchStepsDone = s.batchStepsDone := rfl
@[simp] theorem setLatches_batchNs (s : State) (l : LatchBytes) : (s.setLatches l).batchNs = s.batchNs := rfl
@[simp] theorem setLatches_mirror (s : State) (l : LatchBytes) : (s.setLatches l).mirror = s.mirror := rfl
@[simp] theorem setLatches_lock (s : State) (l : LatchBytes) : (s.setLatches l).lock = s.lock := rfl
@[simp] theorem setLatches_readerWaiting (s : State) (l : LatchBytes) : (s.setLatches l).readerWaiting = s.readerWaiting := rfl
@[simp] theorem setLatches_lastRead (s : State) (l : LatchBytes) : (s.setLatches l).lastRead = s.lastRead := rfl
@[simp] theorem setLatches_run (s : State) (l : LatchBytes) : (s.setLatches l).run = s.run := rfl
@[simp] theorem setLatches_programSealed (s : State) (l : LatchBytes) : (s.setLatches l).programSealed = s.programSealed := rfl
@[simp] theorem setLatches_trace (s : State) (l : LatchBytes) : (s.setLatches l).trace = s.trace := rfl
@[simp] theorem setLatches_requests (s : State) (l : LatchBytes) : (s.setLatches l).requests = s.requests := rfl
@[simp] theorem setLatches_freeCount (s : State) (l : LatchBytes) : (s.setLatches l).freeCount = s.freeCount := rfl

/-! ### `setPrevA` -/
@[simp] theorem setPrevA_cfg (s : State) (b : Byte) : (s.setPrevA b).cfg = s.cfg := rfl
@[simp] theorem setPrevA_srReg (s : State) (b : Byte) : (s.setPrevA b).srReg = s.srReg := rfl
@[simp] theorem setPrevA_srAmount (s : State) (b : Byte) : (s.setPrevA b).srAmount = s.srAmount := rfl
@[simp] theorem setPrevA_mem (s : State) (b : Byte) : (s.setPrevA b).mem = s.mem := rfl
@[simp] theorem setPrevA_inLatch (s : State) (b : Byte) : (s.setPrevA b).inLatch = s.inLatch := rfl
@[simp] theorem setPrevA_prevA (s : State) (b : Byte) : (s.setPrevA b).prevA = b := rfl
@[simp] theorem setPrevA_prevB (s : State) (b : Byte) : (s.setPrevA b).prevB = s.prevB := rfl
@[simp] theorem setPrevA_emuClock (s : State) (b : Byte) : (s.setPrevA b).emuClock = s.emuClock := rfl
@[simp] theorem setPrevA_nextScreen (s : State) (b : Byte) : (s.setPrevA b).nextScreen = s.nextScreen := rfl
@[simp] theorem setPrevA_nextDisplay (s : State) (b : Byte) : (s.setPrevA b).nextDisplay = s.nextDisplay := rfl
@[simp] theorem setPrevA_batchStepsDone (s : State) (b : Byte) : (s.setPrevA b).batchStepsDone = s.batchStepsDone := rfl
@[simp] theorem setPrevA_batchNs (s : State) (b : Byte) : (s.setPrevA b).batchNs = s.batchNs := rfl
@[simp] theorem setPrevA_mirror (s : State) (b : Byte) : (s.setPrevA b).mirror = s.mirror := rfl
@[simp] theorem setPrevA_lock (s : State) (b : Byte) : (s.setPrevA b).lock = s.lock := rfl
@[simp] theorem setPrevA_readerWaiting (s : State) (b : Byte) : (s.setPrevA b).readerWaiting = s.readerWaiting := rfl
@[simp] theorem setPrevA_lastRead (s : State) (b : Byte) : (s.setPrevA b).lastRead = s.lastRead := rfl
@[simp] theorem setPrevA_run (s : State) (b : Byte) : (s.setPrevA b).run = s.run := rfl
@[simp] theorem setPrevA_programSealed (s : State) (b : Byte) : (s.setPrevA b).programSealed = s.programSealed := rfl
@[simp] theorem setPrevA_trace (s : State) (b : Byte) : (s.setPrevA b).trace = s.trace := rfl
@[simp] theorem setPrevA_requests (s : State) (b : Byte) : (s.setPrevA b).requests = s.requests := rfl
@[simp] theorem setPrevA_freeCount (s : State) (b : Byte) : (s.setPrevA b).freeCount = s.freeCount := rfl

/-! ### `setPrevB` -/
@[simp] theorem setPrevB_cfg (s : State) (b : Byte) : (s.setPrevB b).cfg = s.cfg := rfl
@[simp] theorem setPrevB_srReg (s : State) (b : Byte) : (s.setPrevB b).srReg = s.srReg := rfl
@[simp] theorem setPrevB_srAmount (s : State) (b : Byte) : (s.setPrevB b).srAmount = s.srAmount := rfl
@[simp] theorem setPrevB_mem (s : State) (b : Byte) : (s.setPrevB b).mem = s.mem := rfl
@[simp] theorem setPrevB_inLatch (s : State) (b : Byte) : (s.setPrevB b).inLatch = s.inLatch := rfl
@[simp] theorem setPrevB_prevA (s : State) (b : Byte) : (s.setPrevB b).prevA = s.prevA := rfl
@[simp] theorem setPrevB_prevB (s : State) (b : Byte) : (s.setPrevB b).prevB = b := rfl
@[simp] theorem setPrevB_emuClock (s : State) (b : Byte) : (s.setPrevB b).emuClock = s.emuClock := rfl
@[simp] theorem setPrevB_nextScreen (s : State) (b : Byte) : (s.setPrevB b).nextScreen = s.nextScreen := rfl
@[simp] theorem setPrevB_nextDisplay (s : State) (b : Byte) : (s.setPrevB b).nextDisplay = s.nextDisplay := rfl
@[simp] theorem setPrevB_batchStepsDone (s : State) (b : Byte) : (s.setPrevB b).batchStepsDone = s.batchStepsDone := rfl
@[simp] theorem setPrevB_batchNs (s : State) (b : Byte) : (s.setPrevB b).batchNs = s.batchNs := rfl
@[simp] theorem setPrevB_mirror (s : State) (b : Byte) : (s.setPrevB b).mirror = s.mirror := rfl
@[simp] theorem setPrevB_lock (s : State) (b : Byte) : (s.setPrevB b).lock = s.lock := rfl
@[simp] theorem setPrevB_readerWaiting (s : State) (b : Byte) : (s.setPrevB b).readerWaiting = s.readerWaiting := rfl
@[simp] theorem setPrevB_lastRead (s : State) (b : Byte) : (s.setPrevB b).lastRead = s.lastRead := rfl
@[simp] theorem setPrevB_run (s : State) (b : Byte) : (s.setPrevB b).run = s.run := rfl
@[simp] theorem setPrevB_programSealed (s : State) (b : Byte) : (s.setPrevB b).programSealed = s.programSealed := rfl
@[simp] theorem setPrevB_trace (s : State) (b : Byte) : (s.setPrevB b).trace = s.trace := rfl
@[simp] theorem setPrevB_requests (s : State) (b : Byte) : (s.setPrevB b).requests = s.requests := rfl
@[simp] theorem setPrevB_freeCount (s : State) (b : Byte) : (s.setPrevB b).freeCount = s.freeCount := rfl

/-! ### `setClock` -/
@[simp] theorem setClock_cfg (s : State) (t : Nat) : (s.setClock t).cfg = s.cfg := rfl
@[simp] theorem setClock_srReg (s : State) (t : Nat) : (s.setClock t).srReg = s.srReg := rfl
@[simp] theorem setClock_srAmount (s : State) (t : Nat) : (s.setClock t).srAmount = s.srAmount := rfl
@[simp] theorem setClock_mem (s : State) (t : Nat) : (s.setClock t).mem = s.mem := rfl
@[simp] theorem setClock_inLatch (s : State) (t : Nat) : (s.setClock t).inLatch = s.inLatch := rfl
@[simp] theorem setClock_prevA (s : State) (t : Nat) : (s.setClock t).prevA = s.prevA := rfl
@[simp] theorem setClock_prevB (s : State) (t : Nat) : (s.setClock t).prevB = s.prevB := rfl
@[simp] theorem setClock_emuClock (s : State) (t : Nat) : (s.setClock t).emuClock = t := rfl
@[simp] theorem setClock_nextScreen (s : State) (t : Nat) : (s.setClock t).nextScreen = s.nextScreen := rfl
@[simp] theorem setClock_nextDisplay (s : State) (t : Nat) : (s.setClock t).nextDisplay = s.nextDisplay := rfl
@[simp] theorem setClock_batchStepsDone (s : State) (t : Nat) : (s.setClock t).batchStepsDone = s.batchStepsDone := rfl
@[simp] theorem setClock_batchNs (s : State) (t : Nat) : (s.setClock t).batchNs = s.batchNs := rfl
@[simp] theorem setClock_mirror (s : State) (t : Nat) : (s.setClock t).mirror = s.mirror := rfl
@[simp] theorem setClock_lock (s : State) (t : Nat) : (s.setClock t).lock = s.lock := rfl
@[simp] theorem setClock_readerWaiting (s : State) (t : Nat) : (s.setClock t).readerWaiting = s.readerWaiting := rfl
@[simp] theorem setClock_lastRead (s : State) (t : Nat) : (s.setClock t).lastRead = s.lastRead := rfl
@[simp] theorem setClock_run (s : State) (t : Nat) : (s.setClock t).run = s.run := rfl
@[simp] theorem setClock_programSealed (s : State) (t : Nat) : (s.setClock t).programSealed = s.programSealed := rfl
@[simp] theorem setClock_trace (s : State) (t : Nat) : (s.setClock t).trace = s.trace := rfl
@[simp] theorem setClock_requests (s : State) (t : Nat) : (s.setClock t).requests = s.requests := rfl
@[simp] theorem setClock_freeCount (s : State) (t : Nat) : (s.setClock t).freeCount = s.freeCount := rfl

/-! ### `setScreenMark` -/
@[simp] theorem setScreenMark_cfg (s : State) (t : Nat) : (s.setScreenMark t).cfg = s.cfg := rfl
@[simp] theorem setScreenMark_srReg (s : State) (t : Nat) : (s.setScreenMark t).srReg = s.srReg := rfl
@[simp] theorem setScreenMark_srAmount (s : State) (t : Nat) : (s.setScreenMark t).srAmount = s.srAmount := rfl
@[simp] theorem setScreenMark_mem (s : State) (t : Nat) : (s.setScreenMark t).mem = s.mem := rfl
@[simp] theorem setScreenMark_inLatch (s : State) (t : Nat) : (s.setScreenMark t).inLatch = s.inLatch := rfl
@[simp] theorem setScreenMark_prevA (s : State) (t : Nat) : (s.setScreenMark t).prevA = s.prevA := rfl
@[simp] theorem setScreenMark_prevB (s : State) (t : Nat) : (s.setScreenMark t).prevB = s.prevB := rfl
@[simp] theorem setScreenMark_emuClock (s : State) (t : Nat) : (s.setScreenMark t).emuClock = s.emuClock := rfl
@[simp] theorem setScreenMark_nextScreen (s : State) (t : Nat) : (s.setScreenMark t).nextScreen = t := rfl
@[simp] theorem setScreenMark_nextDisplay (s : State) (t : Nat) : (s.setScreenMark t).nextDisplay = s.nextDisplay := rfl
@[simp] theorem setScreenMark_batchStepsDone (s : State) (t : Nat) : (s.setScreenMark t).batchStepsDone = s.batchStepsDone := rfl
@[simp] theorem setScreenMark_batchNs (s : State) (t : Nat) : (s.setScreenMark t).batchNs = s.batchNs := rfl
@[simp] theorem setScreenMark_mirror (s : State) (t : Nat) : (s.setScreenMark t).mirror = s.mirror := rfl
@[simp] theorem setScreenMark_lock (s : State) (t : Nat) : (s.setScreenMark t).lock = s.lock := rfl
@[simp] theorem setScreenMark_readerWaiting (s : State) (t : Nat) : (s.setScreenMark t).readerWaiting = s.readerWaiting := rfl
@[simp] theorem setScreenMark_lastRead (s : State) (t : Nat) : (s.setScreenMark t).lastRead = s.lastRead := rfl
@[simp] theorem setScreenMark_run (s : State) (t : Nat) : (s.setScreenMark t).run = s.run := rfl
@[simp] theorem setScreenMark_programSealed (s : State) (t : Nat) : (s.setScreenMark t).programSealed = s.programSealed := rfl
@[simp] theorem setScreenMark_trace (s : State) (t : Nat) : (s.setScreenMark t).trace = s.trace := rfl
@[simp] theorem setScreenMark_requests (s : State) (t : Nat) : (s.setScreenMark t).requests = s.requests := rfl
@[simp] theorem setScreenMark_freeCount (s : State) (t : Nat) : (s.setScreenMark t).freeCount = s.freeCount := rfl

/-! ### `setDisplayMark` -/
@[simp] theorem setDisplayMark_cfg (s : State) (t : Nat) : (s.setDisplayMark t).cfg = s.cfg := rfl
@[simp] theorem setDisplayMark_srReg (s : State) (t : Nat) : (s.setDisplayMark t).srReg = s.srReg := rfl
@[simp] theorem setDisplayMark_srAmount (s : State) (t : Nat) : (s.setDisplayMark t).srAmount = s.srAmount := rfl
@[simp] theorem setDisplayMark_mem (s : State) (t : Nat) : (s.setDisplayMark t).mem = s.mem := rfl
@[simp] theorem setDisplayMark_inLatch (s : State) (t : Nat) : (s.setDisplayMark t).inLatch = s.inLatch := rfl
@[simp] theorem setDisplayMark_prevA (s : State) (t : Nat) : (s.setDisplayMark t).prevA = s.prevA := rfl
@[simp] theorem setDisplayMark_prevB (s : State) (t : Nat) : (s.setDisplayMark t).prevB = s.prevB := rfl
@[simp] theorem setDisplayMark_emuClock (s : State) (t : Nat) : (s.setDisplayMark t).emuClock = s.emuClock := rfl
@[simp] theorem setDisplayMark_nextScreen (s : State) (t : Nat) : (s.setDisplayMark t).nextScreen = s.nextScreen := rfl
@[simp] theorem setDisplayMark_nextDisplay (s : State) (t : Nat) : (s.setDisplayMark t).nextDisplay = t := rfl
@[simp] theorem setDisplayMark_batchStepsDone (s : State) (t : Nat) : (s.setDisplayMark t).batchStepsDone = s.batchStepsDone := rfl
@[simp] theorem setDisplayMark_batchNs (s : State) (t : Nat) : (s.setDisplayMark t).batchNs = s.batchNs := rfl
@[simp] theorem setDisplayMark_mirror (s : State) (t : Nat) : (s.setDisplayMark t).mirror = s.mirror := rfl
@[simp] theorem setDisplayMark_lock (s : State) (t : Nat) : (s.setDisplayMark t).lock = s.lock := rfl
@[simp] theorem setDisplayMark_readerWaiting (s : State) (t : Nat) : (s.setDisplayMark t).readerWaiting = s.readerWaiting := rfl
@[simp] theorem setDisplayMark_lastRead (s : State) (t : Nat) : (s.setDisplayMark t).lastRead = s.lastRead := rfl
@[simp] theorem setDisplayMark_run (s : State) (t : Nat) : (s.setDisplayMark t).run = s.run := rfl
@[simp] theorem setDisplayMark_programSealed (s : State) (t : Nat) : (s.setDisplayMark t).programSealed = s.programSealed := rfl
@[simp] theorem setDisplayMark_trace (s : State) (t : Nat) : (s.setDisplayMark t).trace = s.trace := rfl
@[simp] theorem setDisplayMark_requests (s : State) (t : Nat) : (s.setDisplayMark t).requests = s.requests := rfl
@[simp] theorem setDisplayMark_freeCount (s : State) (t : Nat) : (s.setDisplayMark t).freeCount = s.freeCount := rfl

/-! ### `setBatch` -/
@[simp] theorem setBatch_cfg (s : State) (d n : Nat) : (s.setBatch d n).cfg = s.cfg := rfl
@[simp] theorem setBatch_srReg (s : State) (d n : Nat) : (s.setBatch d n).srReg = s.srReg := rfl
@[simp] theorem setBatch_srAmount (s : State) (d n : Nat) : (s.setBatch d n).srAmount = s.srAmount := rfl
@[simp] theorem setBatch_mem (s : State) (d n : Nat) : (s.setBatch d n).mem = s.mem := rfl
@[simp] theorem setBatch_inLatch (s : State) (d n : Nat) : (s.setBatch d n).inLatch = s.inLatch := rfl
@[simp] theorem setBatch_prevA (s : State) (d n : Nat) : (s.setBatch d n).prevA = s.prevA := rfl
@[simp] theorem setBatch_prevB (s : State) (d n : Nat) : (s.setBatch d n).prevB = s.prevB := rfl
@[simp] theorem setBatch_emuClock (s : State) (d n : Nat) : (s.setBatch d n).emuClock = s.emuClock := rfl
@[simp] theorem setBatch_nextScreen (s : State) (d n : Nat) : (s.setBatch d n).nextScreen = s.nextScreen := rfl
@[simp] theorem setBatch_nextDisplay (s : State) (d n : Nat) : (s.setBatch d n).nextDisplay = s.nextDisplay := rfl
@[simp] theorem setBatch_batchStepsDone (s : State) (d n : Nat) : (s.setBatch d n).batchStepsDone = d := rfl
@[simp] theorem setBatch_batchNs (s : State) (d n : Nat) : (s.setBatch d n).batchNs = n := rfl
@[simp] theorem setBatch_mirror (s : State) (d n : Nat) : (s.setBatch d n).mirror = s.mirror := rfl
@[simp] theorem setBatch_lock (s : State) (d n : Nat) : (s.setBatch d n).lock = s.lock := rfl
@[simp] theorem setBatch_readerWaiting (s : State) (d n : Nat) : (s.setBatch d n).readerWaiting = s.readerWaiting := rfl
@[simp] theorem setBatch_lastRead (s : State) (d n : Nat) : (s.setBatch d n).lastRead = s.lastRead := rfl
@[simp] theorem setBatch_run (s : State) (d n : Nat) : (s.setBatch d n).run = s.run := rfl
@[simp] theorem setBatch_programSealed (s : State) (d n : Nat) : (s.setBatch d n).programSealed = s.programSealed := rfl
@[simp] theorem setBatch_trace (s : State) (d n : Nat) : (s.setBatch d n).trace = s.trace := rfl
@[simp] theorem setBatch_requests (s : State) (d n : Nat) : (s.setBatch d n).requests = s.requests := rfl
@[simp] theorem setBatch_freeCount (s : State) (d n : Nat) : (s.setBatch d n).freeCount = s.freeCount := rfl

/-! ### `setMirror` -/
@[simp] theorem setMirror_cfg (s : State) (f : Frame) : (s.setMirror f).cfg = s.cfg := rfl
@[simp] theorem setMirror_srReg (s : State) (f : Frame) : (s.setMirror f).srReg = s.srReg := rfl
@[simp] theorem setMirror_srAmount (s : State) (f : Frame) : (s.setMirror f).srAmount = s.srAmount := rfl
@[simp] theorem setMirror_mem (s : State) (f : Frame) : (s.setMirror f).mem = s.mem := rfl
@[simp] theorem setMirror_inLatch (s : State) (f : Frame) : (s.setMirror f).inLatch = s.inLatch := rfl
@[simp] theorem setMirror_prevA (s : State) (f : Frame) : (s.setMirror f).prevA = s.prevA := rfl
@[simp] theorem setMirror_prevB (s : State) (f : Frame) : (s.setMirror f).prevB = s.prevB := rfl
@[simp] theorem setMirror_emuClock (s : State) (f : Frame) : (s.setMirror f).emuClock = s.emuClock := rfl
@[simp] theorem setMirror_nextScreen (s : State) (f : Frame) : (s.setMirror f).nextScreen = s.nextScreen := rfl
@[simp] theorem setMirror_nextDisplay (s : State) (f : Frame) : (s.setMirror f).nextDisplay = s.nextDisplay := rfl
@[simp] theorem setMirror_batchStepsDone (s : State) (f : Frame) : (s.setMirror f).batchStepsDone = s.batchStepsDone := rfl
@[simp] theorem setMirror_batchNs (s : State) (f : Frame) : (s.setMirror f).batchNs = s.batchNs := rfl
@[simp] theorem setMirror_mirror (s : State) (f : Frame) : (s.setMirror f).mirror = f := rfl
@[simp] theorem setMirror_lock (s : State) (f : Frame) : (s.setMirror f).lock = s.lock := rfl
@[simp] theorem setMirror_readerWaiting (s : State) (f : Frame) : (s.setMirror f).readerWaiting = s.readerWaiting := rfl
@[simp] theorem setMirror_lastRead (s : State) (f : Frame) : (s.setMirror f).lastRead = s.lastRead := rfl
@[simp] theorem setMirror_run (s : State) (f : Frame) : (s.setMirror f).run = s.run := rfl
@[simp] theorem setMirror_programSealed (s : State) (f : Frame) : (s.setMirror f).programSealed = s.programSealed := rfl
@[simp] theorem setMirror_trace (s : State) (f : Frame) : (s.setMirror f).trace = s.trace := rfl
@[simp] theorem setMirror_requests (s : State) (f : Frame) : (s.setMirror f).requests = s.requests := rfl
@[simp] theorem setMirror_freeCount (s : State) (f : Frame) : (s.setMirror f).freeCount = s.freeCount := rfl

/-! ### `setLock` -/
@[simp] theorem setLock_cfg (s : State) (l : Lock) : (s.setLock l).cfg = s.cfg := rfl
@[simp] theorem setLock_srReg (s : State) (l : Lock) : (s.setLock l).srReg = s.srReg := rfl
@[simp] theorem setLock_srAmount (s : State) (l : Lock) : (s.setLock l).srAmount = s.srAmount := rfl
@[simp] theorem setLock_mem (s : State) (l : Lock) : (s.setLock l).mem = s.mem := rfl
@[simp] theorem setLock_inLatch (s : State) (l : Lock) : (s.setLock l).inLatch = s.inLatch := rfl
@[simp] theorem setLock_prevA (s : State) (l : Lock) : (s.setLock l).prevA = s.prevA := rfl
@[simp] theorem setLock_prevB (s : State) (l : Lock) : (s.setLock l).prevB = s.prevB := rfl
@[simp] theorem setLock_emuClock (s : State) (l : Lock) : (s.setLock l).emuClock = s.emuClock := rfl
@[simp] theorem setLock_nextScreen (s : State) (l : Lock) : (s.setLock l).nextScreen = s.nextScreen := rfl
@[simp] theorem setLock_nextDisplay (s : State) (l : Lock) : (s.setLock l).nextDisplay = s.nextDisplay := rfl
@[simp] theorem setLock_batchStepsDone (s : State) (l : Lock) : (s.setLock l).batchStepsDone = s.batchStepsDone := rfl
@[simp] theorem setLock_batchNs (s : State) (l : Lock) : (s.setLock l).batchNs = s.batchNs := rfl
@[simp] theorem setLock_mirror (s : State) (l : Lock) : (s.setLock l).mirror = s.mirror := rfl
@[simp] theorem setLock_lock (s : State) (l : Lock) : (s.setLock l).lock = l := rfl
@[simp] theorem setLock_readerWaiting (s : State) (l : Lock) : (s.setLock l).readerWaiting = s.readerWaiting := rfl
@[simp] theorem setLock_lastRead (s : State) (l : Lock) : (s.setLock l).lastRead = s.lastRead := rfl
@[simp] theorem setLock_run (s : State) (l : Lock) : (s.setLock l).run = s.run := rfl
@[simp] theorem setLock_programSealed (s : State) (l : Lock) : (s.setLock l).programSealed = s.programSealed := rfl
@[simp] theorem setLock_trace (s : State) (l : Lock) : (s.setLock l).trace = s.trace := rfl
@[simp] theorem setLock_requests (s : State) (l : Lock) : (s.setLock l).requests = s.requests := rfl
@[simp] theorem setLock_freeCount (s : State) (l : Lock) : (s.setLock l).freeCount = s.freeCount := rfl

/-! ### `setWaiting` -/
@[simp] theorem setWaiting_cfg (s : State) (w : Bool) : (s.setWaiting w).cfg = s.cfg := rfl
@[simp] theorem setWaiting_srReg (s : State) (w : Bool) : (s.setWaiting w).srReg = s.srReg := rfl
@[simp] theorem setWaiting_srAmount (s : State) (w : Bool) : (s.setWaiting w).srAmount = s.srAmount := rfl
@[simp] theorem setWaiting_mem (s : State) (w : Bool) : (s.setWaiting w).mem = s.mem := rfl
@[simp] theorem setWaiting_inLatch (s : State) (w : Bool) : (s.setWaiting w).inLatch = s.inLatch := rfl
@[simp] theorem setWaiting_prevA (s : State) (w : Bool) : (s.setWaiting w).prevA = s.prevA := rfl
@[simp] theorem setWaiting_prevB (s : State) (w : Bool) : (s.setWaiting w).prevB = s.prevB := rfl
@[simp] theorem setWaiting_emuClock (s : State) (w : Bool) : (s.setWaiting w).emuClock = s.emuClock := rfl
@[simp] theorem setWaiting_nextScreen (s : State) (w : Bool) : (s.setWaiting w).nextScreen = s.nextScreen := rfl
@[simp] theorem setWaiting_nextDisplay (s : State) (w : Bool) : (s.setWaiting w).nextDisplay = s.nextDisplay := rfl
@[simp] theorem setWaiting_batchStepsDone (s : State) (w : Bool) : (s.setWaiting w).batchStepsDone = s.batchStepsDone := rfl
@[simp] theorem setWaiting_batchNs (s : State) (w : Bool) : (s.setWaiting w).batchNs = s.batchNs := rfl
@[simp] theorem setWaiting_mirror (s : State) (w : Bool) : (s.setWaiting w).mirror = s.mirror := rfl
@[simp] theorem setWaiting_lock (s : State) (w : Bool) : (s.setWaiting w).lock = s.lock := rfl
@[simp] theorem setWaiting_readerWaiting (s : State) (w : Bool) : (s.setWaiting w).readerWaiting = w := rfl
@[simp] theorem setWaiting_lastRead (s : State) (w : Bool) : (s.setWaiting w).lastRead = s.lastRead := rfl
@[simp] theorem setWaiting_run (s : State) (w : Bool) : (s.setWaiting w).run = s.run := rfl
@[simp] theorem setWaiting_programSealed (s : State) (w : Bool) : (s.setWaiting w).programSealed = s.programSealed := rfl
@[simp] theorem setWaiting_trace (s : State) (w : Bool) : (s.setWaiting w).trace = s.trace := rfl
@[simp] theorem setWaiting_requests (s : State) (w : Bool) : (s.setWaiting w).requests = s.requests := rfl
@[simp] theorem setWaiting_freeCount (s : State) (w : Bool) : (s.setWaiting w).freeCount = s.freeCount := rfl

/-! ### `setLastRead` -/
@[simp] theorem setLastRead_cfg (s : State) (f : Option Frame) : (s.setLastRead f).cfg = s.cfg := rfl
@[simp] theorem setLastRead_srReg (s : State) (f : Option Frame) : (s.setLastRead f).srReg = s.srReg := rfl
@[simp] theorem setLastRead_srAmount (s : State) (f : Option Frame) : (s.setLastRead f).srAmount = s.srAmount := rfl
@[simp] theorem setLastRead_mem (s : State) (f : Option Frame) : (s.setLastRead f).mem = s.mem := rfl
@[simp] theorem setLastRead_inLatch (s : State) (f : Option Frame) : (s.setLastRead f).inLatch = s.inLatch := rfl
@[simp] theorem setLastRead_prevA (s : State) (f : Option Frame) : (s.setLastRead f).prevA = s.prevA := rfl
@[simp] theorem setLastRead_prevB (s : State) (f : Option Frame) : (s.setLastRead f).prevB = s.prevB := rfl
@[simp] theorem setLastRead_emuClock (s : State) (f : Option Frame) : (s.setLastRead f).emuClock = s.emuClock := rfl
@[simp] theorem setLastRead_nextScreen (s : State) (f : Option Frame) : (s.setLastRead f).nextScreen = s.nextScreen := rfl
@[simp] theorem setLastRead_nextDisplay (s : State) (f : Option Frame) : (s.setLastRead f).nextDisplay = s.nextDisplay := rfl
@[simp] theorem setLastRead_batchStepsDone (s : State) (f : Option Frame) : (s.setLastRead f).batchStepsDone = s.batchStepsDone := rfl
@[simp] theorem setLastRead_batchNs (s : State) (f : Option Frame) : (s.setLastRead f).batchNs = s.batchNs := rfl
@[simp] theorem setLastRead_mirror (s : State) (f : Option Frame) : (s.setLastRead f).mirror = s.mirror := rfl
@[simp] theorem setLastRead_lock (s : State) (f : Option Frame) : (s.setLastRead f).lock = s.lock := rfl
@[simp] theorem setLastRead_readerWaiting (s : State) (f : Option Frame) : (s.setLastRead f).readerWaiting = s.readerWaiting := rfl
@[simp] theorem setLastRead_lastRead (s : State) (f : Option Frame) : (s.setLastRead f).lastRead = f := rfl
@[simp] theorem setLastRead_run (s : State) (f : Option Frame) : (s.setLastRead f).run = s.run := rfl
@[simp] theorem setLastRead_programSealed (s : State) (f : Option Frame) : (s.setLastRead f).programSealed = s.programSealed := rfl
@[simp] theorem setLastRead_trace (s : State) (f : Option Frame) : (s.setLastRead f).trace = s.trace := rfl
@[simp] theorem setLastRead_requests (s : State) (f : Option Frame) : (s.setLastRead f).requests = s.requests := rfl
@[simp] theorem setLastRead_freeCount (s : State) (f : Option Frame) : (s.setLastRead f).freeCount = s.freeCount := rfl

/-! ### `setRun` -/
@[simp] theorem setRun_cfg (s : State) (r : Bool) : (s.setRun r).cfg = s.cfg := rfl
@[simp] theorem setRun_srReg (s : State) (r : Bool) : (s.setRun r).srReg = s.srReg := rfl
@[simp] theorem setRun_srAmount (s : State) (r : Bool) : (s.setRun r).srAmount = s.srAmount := rfl
@[simp] theorem setRun_mem (s : State) (r : Bool) : (s.setRun r).mem = s.mem := rfl
@[simp] theorem setRun_inLatch (s : State) (r : Bool) : (s.setRun r).inLatch = s.inLatch := rfl
@[simp] theorem setRun_prevA (s : State) (r : Bool) : (s.setRun r).prevA = s.prevA := rfl
@[simp] theorem setRun_prevB (s : State) (r : Bool) : (s.setRun r).prevB = s.prevB := rfl
@[simp] theorem setRun_emuClock (s : State) (r : Bool) : (s.setRun r).emuClock = s.emuClock := rfl
@[simp] theorem setRun_nextScreen (s : State) (r : Bool) : (s.setRun r).nextScreen = s.nextScreen := rfl
@[simp] theorem setRun_nextDisplay (s : State) (r : Bool) : (s.setRun r).nextDisplay = s.nextDisplay := rfl
@[simp] theorem setRun_batchStepsDone (s : State) (r : Bool) : (s.setRun r).batchStepsDone = s.batchStepsDone := rfl
@[simp] theorem setRun_batchNs (s : State) (r : Bool) : (s.setRun r).batchNs = s.batchNs := rfl
@[simp] theorem setRun_mirror (s : State) (r : Bool) : (s.setRun r).mirror = s.mirror := rfl
@[simp] theorem setRun_lock (s : State) (r : Bool) : (s.setRun r).lock = s.lock := rfl
@[simp] theorem setRun_readerWaiting (s : State) (r : Bool) : (s.setRun r).readerWaiting = s.readerWaiting := rfl
@[simp] theorem setRun_lastRead (s : State) (r : Bool) : (s.setRun r).lastRead = s.lastRead := rfl
@[simp] theorem setRun_run (s : State) (r : Bool) : (s.setRun r).run = r := rfl
@[simp] theorem setRun_programSealed (s : State) (r : Bool) : (s.setRun r).programSealed = s.programSealed := rfl
@[simp] theorem setRun_trace (s : State) (r : Bool) : (s.setRun r).trace = s.trace := rfl
@[simp] theorem setRun_requests (s : State) (r : Bool) : (s.setRun r).requests = s.requests := rfl
@[simp] theorem setRun_freeCount (s : State) (r : Bool) : (s.setRun r).freeCount = s.freeCount := rfl

/-! ### `seal` -/
@[simp] theorem seal_cfg (s : State) : s.seal.cfg = s.cfg := rfl
@[simp] theorem seal_srReg (s : State) : s.seal.srReg = s.srReg := rfl
@[simp] theorem seal_srAmount (s : State) : s.seal.srAmount = s.srAmount := rfl
@[simp] theorem seal_mem (s : State) : s.seal.mem = s.mem := rfl
@[simp] theorem seal_inLatch (s : State) : s.seal.inLatch = s.inLatch := rfl
@[simp] theorem seal_prevA (s : State) : s.seal.prevA = s.prevA := rfl
@[simp] theorem seal_prevB (s : State) : s.seal.prevB = s.prevB := rfl
@[simp] theorem seal_emuClock (s : State) : s.seal.emuClock = s.emuClock := rfl
@[simp] theorem seal_nextScreen (s : State) : s.seal.nextScreen = s.nextScreen := rfl
@[simp] theorem seal_nextDisplay (s : State) : s.seal.nextDisplay = s.nextDisplay := rfl
@[simp] theorem seal_batchStepsDone (s : State) : s.seal.batchStepsDone = s.batchStepsDone := rfl
@[simp] theorem seal_batchNs (s : State) : s.seal.batchNs = s.batchNs := rfl
@[simp] theorem seal_mirror (s : State) : s.seal.mirror = s.mirror := rfl
@[simp] theorem seal_lock (s : State) : s.seal.lock = s.lock := rfl
@[simp] theorem seal_readerWaiting (s : State) : s.seal.readerWaiting = s.readerWaiting := rfl
@[simp] theorem seal_lastRead (s : State) : s.seal.lastRead = s.lastRead := rfl
@[simp] theorem seal_run (s : State) : s.seal.run = s.run := rfl
@[simp] theorem seal_programSealed (s : State) : s.seal.programSealed = true := rfl
@[simp] theorem seal_trace (s : State) : s.seal.trace = s.trace := rfl
@[simp] theorem seal_requests (s : State) : s.seal.requests = s.requests := rfl
@[simp] theorem seal_freeCount (s : State) : s.seal.freeCount = s.freeCount := rfl

/-! ### `setRequests` -/
@[simp] theorem setRequests_cfg (s : State) (q : List Request) : (s.setRequests q).cfg = s.cfg := rfl
@[simp] theorem setRequests_srReg (s : State) (q : List Request) : (s.setRequests q).srReg = s.srReg := rfl
@[simp] theorem setRequests_srAmount (s : State) (q : List Request) : (s.setRequests q).srAmount = s.srAmount := rfl
@[simp] theorem setRequests_mem (s : State) (q : List Request) : (s.setRequests q).mem = s.mem := rfl
@[simp] theorem setRequests_inLatch (s : State) (q : List Request) : (s.setRequests q).inLatch = s.inLatch := rfl
@[simp] theorem setRequests_prevA (s : State) (q : List Request) : (s.setRequests q).prevA = s.prevA := rfl
@[simp] theorem setRequests_prevB (s : State) (q : List Request) : (s.setRequests q).prevB = s.prevB := rfl
@[simp] theorem setRequests_emuClock (s : State) (q : List Request) : (s.setRequests q).emuClock = s.emuClock := rfl
@[simp] theorem setRequests_nextScreen (s : State) (q : List Request) : (s.setRequests q).nextScreen = s.nextScreen := rfl
@[simp] theorem setRequests_nextDisplay (s : State) (q : List Request) : (s.setRequests q).nextDisplay = s.nextDisplay := rfl
@[simp] theorem setRequests_batchStepsDone (s : State) (q : List Request) : (s.setRequests q).batchStepsDone = s.batchStepsDone := rfl
@[simp] theorem setRequests_batchNs (s : State) (q : List Request) : (s.setRequests q).batchNs = s.batchNs := rfl
@[simp] theorem setRequests_mirror (s : State) (q : List Request) : (s.setRequests q).mirror = s.mirror := rfl
@[simp] theorem setRequests_lock (s : State) (q : List Request) : (s.setRequests q).lock = s.lock := rfl
@[simp] theorem setRequests_readerWaiting (s : State) (q : List Request) : (s.setRequests q).readerWaiting = s.readerWaiting := rfl
@[simp] theorem setRequests_lastRead (s : State) (q : List Request) : (s.setRequests q).lastRead = s.lastRead := rfl
@[simp] theorem setRequests_run (s : State) (q : List Request) : (s.setRequests q).run = s.run := rfl
@[simp] theorem setRequests_programSealed (s : State) (q : List Request) : (s.setRequests q).programSealed = s.programSealed := rfl
@[simp] theorem setRequests_trace (s : State) (q : List Request) : (s.setRequests q).trace = s.trace := rfl
@[simp] theorem setRequests_requests (s : State) (q : List Request) : (s.setRequests q).requests = q := rfl
@[simp] theorem setRequests_freeCount (s : State) (q : List Request) : (s.setRequests q).freeCount = s.freeCount := rfl

/-! ### `draw` -/
@[simp] theorem draw_cfg (s : State) : s.draw.cfg = s.cfg := rfl
@[simp] theorem draw_srReg (s : State) : s.draw.srReg = s.srReg := rfl
@[simp] theorem draw_srAmount (s : State) : s.draw.srAmount = s.srAmount := rfl
@[simp] theorem draw_mem (s : State) : s.draw.mem = s.mem := rfl
@[simp] theorem draw_inLatch (s : State) : s.draw.inLatch = s.inLatch := rfl
@[simp] theorem draw_prevA (s : State) : s.draw.prevA = s.prevA := rfl
@[simp] theorem draw_prevB (s : State) : s.draw.prevB = s.prevB := rfl
@[simp] theorem draw_emuClock (s : State) : s.draw.emuClock = s.emuClock := rfl
@[simp] theorem draw_nextScreen (s : State) : s.draw.nextScreen = s.nextScreen := rfl
@[simp] theorem draw_nextDisplay (s : State) : s.draw.nextDisplay = s.nextDisplay := rfl
@[simp] theorem draw_batchStepsDone (s : State) : s.draw.batchStepsDone = s.batchStepsDone := rfl
@[simp] theorem draw_batchNs (s : State) : s.draw.batchNs = s.batchNs := rfl
@[simp] theorem draw_mirror (s : State) : s.draw.mirror = s.mirror := rfl
@[simp] theorem draw_lock (s : State) : s.draw.lock = s.lock := rfl
@[simp] theorem draw_readerWaiting (s : State) : s.draw.readerWaiting = s.readerWaiting := rfl
@[simp] theorem draw_lastRead (s : State) : s.draw.lastRead = s.lastRead := rfl
@[simp] theorem draw_run (s : State) : s.draw.run = s.run := rfl
@[simp] theorem draw_programSealed (s : State) : s.draw.programSealed = s.programSealed := rfl
@[simp] theorem draw_trace (s : State) : s.draw.trace = s.trace := rfl
@[simp] theorem draw_requests (s : State) : s.draw.requests = s.requests := rfl
@[simp] theorem draw_freeCount (s : State) : s.draw.freeCount = s.freeCount + 1 := rfl

end Sys2Proof.Machine.State
end

