-- ==== Sys2Proof/Laws/Memory.lean ====
section
/-! SUPPORT. Memory: what a read gives after a write, and that every memory operation keeps the canonical form. -/

namespace Sys2Proof.Machine.Memory

theorem wf_nil : wf [] := ⟨List.Pairwise.nil, by simp⟩

theorem wf_tail {x : Host.Cell} {m : Memory} (h : wf (x :: m)) : wf m :=
  ⟨(List.pairwise_cons.1 h.1).2, fun y hy => h.2 y (List.mem_cons_of_mem _ hy)⟩

theorem wf_cons {k : Nat} {b : Byte} {m : Memory} :
    wf ((k, b) :: m) ↔ (∀ y ∈ m, k < y.1) ∧ b ≠ unlisted ∧ wf m := by
  simp only [wf, List.pairwise_cons, List.forall_mem_cons]
  tauto

/-- An address below every listed one reads as unlisted. -/
theorem read_of_forall_lt {m : Memory} {a : Nat} (h : ∀ y ∈ m, a < y.1) : m.read a = unlisted := by
  induction m with
  | nil => rfl
  | cons x m ih =>
    have hx := h x (by simp)
    simp only [read, if_neg (Nat.ne_of_gt hx)]
    exact ih fun y hy => h y (by simp [hy])

/-- A write lists nothing but the cell it writes and cells that were listed. -/
theorem mem_write {m : Memory} {a : Nat} {v : Byte} {x : Host.Cell} (h : x ∈ m.write a v) :
    x = (a, v) ∨ x ∈ m := by
  induction m with
  | nil => simp only [write] at h; split at h <;> simp_all
  | cons y m ih =>
    simp only [write] at h
    split at h
    · split at h <;> simp_all
    · split at h
      · split at h <;> (simp_all; try tauto)
      · rcases List.mem_cons.1 h with rfl | h
        · simp
        · rcases ih h with h | h <;> simp [h]

/-- A write keeps the canonical form. -/
theorem wf_write {m : Memory} (h : wf m) (a : Nat) (v : Byte) : wf (m.write a v) := by
  induction m with
  | nil =>
    simp only [write]; split
    · exact wf_nil
    · exact wf_cons.2 ⟨by simp, ‹_›, wf_nil⟩
  | cons y m ih =>
    obtain ⟨k, b⟩ := y
    obtain ⟨hk, hb, hm⟩ := wf_cons.1 h
    simp only [write]
    split
    · split
      · exact h
      · refine wf_cons.2 ⟨fun y hy => ?_, ‹_›, h⟩
        rcases List.mem_cons.1 hy with rfl | hy
        · assumption
        · exact Nat.lt_trans ‹_› (hk y hy)
    · split
      · subst a
        split
        · exact hm
        · exact wf_cons.2 ⟨hk, ‹_›, hm⟩
      · refine wf_cons.2 ⟨fun y hy => ?_, hb, ih hm⟩
        rcases mem_write hy with rfl | hy
        · simp; omega
        · exact hk y hy

/-- The cell written reads as the byte written. -/
theorem read_write_same {m : Memory} (h : wf m) (a : Nat) (v : Byte) : (m.write a v).read a = v := by
  induction m with
  | nil => simp only [write]; split <;> simp_all [read]
  | cons y m ih =>
    obtain ⟨k, b⟩ := y
    obtain ⟨hk, -, hm⟩ := wf_cons.1 h
    simp only [write]
    split
    · split
      · rw [read_of_forall_lt, ‹v = unlisted›]
        intro y hy
        rcases List.mem_cons.1 hy with rfl | hy
        · assumption
        · exact Nat.lt_trans ‹_› (hk y hy)
      · simp [read]
    · split
      · subst a
        split
        · rw [read_of_forall_lt hk, ‹v = unlisted›]
        · simp [read]
      · simp only [read, if_neg (show ¬ k = a by omega)]
        exact ih hm

/-- Every other cell reads as before. -/
theorem read_write_other {m : Memory} (h : wf m) {a b : Nat} (hab : b ≠ a) (v : Byte) :
    (m.write a v).read b = m.read b := by
  induction m with
  | nil => simp only [write]; split <;> simp_all [read]; omega
  | cons y m ih =>
    obtain ⟨k, c⟩ := y
    obtain ⟨hk, -, hm⟩ := wf_cons.1 h
    simp only [write]
    split
    · split
      · rfl
      · simp [read, hab.symm]
    · split
      · subst a
        split <;> simp [read, hab.symm]
      · simp only [read]
        split
        · rfl
        · exact ih hm

theorem wf_writeList {m : Memory} (h : wf m) (a : Nat) (vs : List Byte) : wf (m.writeList a vs) := by
  induction vs generalizing m a with
  | nil => exact h
  | cons v vs ih => exact ih (wf_write h a v) (a + 1)

theorem mem_writeList {m : Memory} {a : Nat} {vs : List Byte} {x : Host.Cell} (h : x ∈ m.writeList a vs) :
    (a ≤ x.1 ∧ x.1 < a + vs.length) ∨ x ∈ m := by
  induction vs generalizing m a with
  | nil => exact .inr h
  | cons v vs ih =>
    rcases ih h with h | h
    · left; simp; omega
    · rcases mem_write h with rfl | h
      · left; simp
      · exact .inr h

/-- A bulk write leaves every cell outside its range alone. -/
theorem read_writeList_outside {m : Memory} (h : wf m) {a b : Nat} {vs : List Byte}
    (hb : b < a ∨ a + vs.length ≤ b) : (m.writeList a vs).read b = m.read b := by
  induction vs generalizing m a with
  | nil => rfl
  | cons v vs ih =>
    simp only [List.length_cons] at hb
    rw [writeList, ih (wf_write h a v) (by omega), read_write_other h (by omega)]

/-- Byte `k` of a bulk write reads back at its address. -/
theorem read_writeList_inside {m : Memory} (h : wf m) (a : Nat) (vs : List Byte) (k : Nat) (hk : k < vs.length) :
    (m.writeList a vs).read (a + k) = vs[k] := by
  induction vs generalizing m a k with
  | nil => simp at hk
  | cons v vs ih =>
    rw [writeList]
    cases k with
    | zero =>
      rw [read_writeList_outside (wf_write h a v) (by omega)]
      exact read_write_same h a v
    | succ k =>
      have := ih (wf_write h a v) (a + 1) k (by simpa using hk)
      rw [show a + (k + 1) = a + 1 + k by omega, this]
      simp

end Sys2Proof.Machine.Memory
end

