-- ==== Sys2Proof/Laws/Operands.lean ====
section
/-! SUPPORT. The address mask and the region decode: what they are in plain arithmetic. -/

namespace Sys2Proof

theorem window_eq_mod (addr : Addr) : window addr = addr.toNat % 0x4000 := by
  simp [window]

theorem window_lt (addr : Addr) : window addr < 0x4000 := by
  rw [window_eq_mod]; omega

/-- Rule R61: adding a multiple of the window changes no window address. -/
theorem window_mirror (addr : Addr) (k : Nat) : window (addr + BitVec.ofNat 16 (0x4000 * k)) = window addr := by
  simp only [window_eq_mod, BitVec.toNat_add, BitVec.toNat_ofNat]
  omega

/-- Bytes above a start address lie above its window address, while they stay in the window. -/
theorem window_add {addr : Addr} {k : Nat} (h : window addr + k < 0x4000) :
    window (addr + BitVec.ofNat 16 k) = window addr + k := by
  simp only [window_eq_mod, BitVec.toNat_add, BitVec.toNat_ofNat] at *
  omega

/-- Rule R91: an address that decodes to a region lies in it. -/
theorem regionOf_bounds {c : Config} {a : Nat} {r : Region} (h : regionOf c a = some r) :
    c.base r ≤ a ∧ a < c.base r + c.size r := by
  simp only [regionOf] at h
  split at h
  · cases h; assumption
  · split at h
    · cases h; assumption
    · split at h
      · cases h; assumption
      · cases h

theorem regionOf_eq_none {c : Config} {a : Nat} :
    regionOf c a = none ↔ ∀ r, ¬ (c.base r ≤ a ∧ a < c.base r + c.size r) := by
  constructor
  · intro h r hr
    cases r <;> simp only [Config.base, Config.size] at hr <;> simp only [regionOf, hr, and_self, if_true] at h
    · cases h
    · split at h <;> cases h
    · split at h
      · cases h
      · split at h <;> cases h
  · intro h
    cases ho : regionOf c a with
    | none => rfl
    | some r => exact absurd (regionOf_bounds ho) (h r)

/-- Regions that do not overlap: an address inside a region decodes to it. -/
theorem regionOf_eq_some {c : Config} (hc : c.RegionsOk) {a : Nat} {r : Region}
    (h : c.base r ≤ a ∧ a < c.base r + c.size r) : regionOf c a = some r := by
  obtain ⟨-, -, h1, h2, h3⟩ := hc
  cases r <;> simp only [Config.base, Config.size] at h <;> simp only [regionOf]
  · rw [if_pos h]
  · rw [if_neg (by omega), if_pos h]
  · rw [if_neg (by omega), if_neg (by omega), if_pos h]

/-- Rules R66, R67: a range decodes to a region exactly where it lies wholly inside it. -/
theorem spanRegion_eq_some {c : Config} (hc : c.RegionsOk) {a n : Nat} (hn : 0 < n) {r : Region} :
    spanRegion c a n = some r ↔ c.base r ≤ a ∧ a + n ≤ c.base r + c.size r := by
  constructor
  · intro h
    simp only [spanRegion] at h
    cases ho : regionOf c a with
    | none => simp [ho] at h
    | some q =>
      simp only [ho] at h
      split at h
      · cases h; exact ⟨(regionOf_bounds ho).1, ‹_›⟩
      · cases h
  · intro h
    simp only [spanRegion, regionOf_eq_some hc (r := r) ⟨h.1, by omega⟩, if_pos h.2]

theorem spanRegion_one {c : Config} {a : Nat} : spanRegion c a 1 = regionOf c a := by
  simp only [spanRegion]
  cases ho : regionOf c a with
  | none => rfl
  | some r => simp only; rw [if_pos]; have := regionOf_bounds ho; omega

/-- A region of a valid configuration lies inside the window. -/
theorem region_in_window {c : Config} (hc : c.RegionsOk) (r : Region) : c.base r + c.size r ≤ 0x4000 := by
  obtain ⟨-, ⟨h1, h2, h3⟩, -⟩ := hc
  cases r <;> simp only [Config.base, Config.size] <;> assumption

end Sys2Proof
end

