-- ==== Sys2Proof/Laws/Ops.lean ====
section
/-! SUPPORT. What each shared operation can do, said once: the shape of the state after it, the outputs it adds, the memory it
leaves. -/

namespace Sys2Proof.Machine

/-! ### Memory image -/

/-- A byte write keeps the canonical form. -/
theorem writeByteAt_wf {m : Memory} (h : m.wf) (c : Config) (addr : Addr) (v : Byte) :
    (writeByteAt c m addr v).wf := by
  simp only [writeByteAt]
  split <;> first | exact h | exact Memory.wf_write h _ _

/-- A bulk write keeps the canonical form. -/
theorem memWrite_wf {m m' : Memory} (h : m.wf) {c : Config} {addr : Addr} {vs : List Byte}
    (hw : memWrite c m addr vs = some m') : m'.wf := by
  simp only [memWrite] at hw
  split at hw
  · cases hw; exact h
  · split at hw
    · cases hw; exact h
    · cases hw; exact Memory.wf_writeList h _ _
    · cases hw; exact Memory.wf_writeList h _ _
    · split at hw
      · cases hw; exact h
      · cases hw

/-- A load gives the canonical form. -/
theorem loadedMemory_wf (c : Config) (im : Image) : (loadedMemory c im).wf := by
  suffices ∀ (cells : List (Nat × Byte)) (m : Memory), m.wf →
      Memory.wf (cells.foldl (fun m x => if x.1 < c.progSize then m.write (c.progBase + x.1) x.2 else m) m) from
    this _ _ Memory.wf_nil
  intro cells
  induction cells with
  | nil => exact fun m h => h
  | cons x xs ih =>
    intro m h
    refine ih _ ?_
    dsimp only
    split
    · exact Memory.wf_write h _ _
    · exact h

/-- Where a byte write takes effect: in the Working and the Video region (rules R132, R133, R137). -/
theorem writeByteAt_cases (c : Config) (m : Memory) (addr : Addr) (v : Byte) :
    (writeByteAt c m addr v = m.write (window addr) v ∧
      (regionOf c (window addr) = some .working ∨ regionOf c (window addr) = some .video)) ∨
    (writeByteAt c m addr v = m ∧
      (regionOf c (window addr) = some .program ∨ regionOf c (window addr) = none)) := by
  simp only [writeByteAt]
  split <;> simp_all

/-! ### The engine's memory operations -/

/-- One engine operation: memory and outputs may change, nothing else; the outputs are memory reads. -/
theorem memOp_frame {s t : State} {op : MemOp} (h : s.memOp op = some t) :
    ∃ os, t = { s with mem := t.mem, trace := s.trace ++ os } ∧ ∀ o ∈ os, ∃ bs, o = .memBytes bs := by
  cases op with
  | readByte a => cases h; exact ⟨_, rfl, by simp⟩
  | writeByte a v => cases h; exact ⟨[], by simp [State.storeByte, State.setMem], by simp⟩
  | readBytes a n =>
    simp only [State.memOp, State.loadBytes] at h
    split at h
    · cases h; exact ⟨_, rfl, by simp⟩
    · cases h
  | writeBytes a vs =>
    simp only [State.memOp, State.storeBytes] at h
    split at h
    · cases h; exact ⟨[], by simp [State.setMem], by simp⟩
    · cases h

/-- An engine's operations during a step: memory and outputs may change, nothing else; the outputs are memory reads. -/
theorem memOps_frame {ops : List MemOp} {s t : State} (h : s.memOps ops = some t) :
    ∃ os, t = { s with mem := t.mem, trace := s.trace ++ os } ∧ ∀ o ∈ os, ∃ bs, o = .memBytes bs := by
  induction ops generalizing s with
  | nil => cases h; exact ⟨[], by simp, by simp⟩
  | cons op ops ih =>
    simp only [State.memOps] at h
    split at h
    · rename_i u hu
      obtain ⟨os1, h1, k1⟩ := memOp_frame hu
      obtain ⟨os2, h2, k2⟩ := ih h
      refine ⟨os1 ++ os2, ?_, ?_⟩
      · rw [h2, h1]; simp
      · simp only [List.mem_append]; rintro o (ho | ho)
        · exact k1 o ho
        · exact k2 o ho
    · cases h

/-! ### The dispatcher -/

/-- Serving a request: the shift register, the sound latches and the outputs may change, nothing else; the outputs are sound
events or one input byte. -/
theorem dispatch_frame (s : State) (q : IORequest) :
    ∃ os, s.dispatch q = { s with
        srReg := (s.dispatch q).srReg, srAmount := (s.dispatch q).srAmount,
        prevA := (s.dispatch q).prevA, prevB := (s.dispatch q).prevB, trace := s.trace ++ os } ∧
      ∀ o ∈ os, (∃ e, o = .sound e) ∨ ∃ b, o = .writeInput b := by
  cases q with
  | idle => exact ⟨[], by simp [State.dispatch], by simp⟩
  | input p => exact ⟨[.writeInput (s.inputValue p)], by simp [State.dispatch, State.supplyInput, State.emit], by simp⟩
  | output p b =>
    simp only [State.dispatch, State.output]
    split
    · exact ⟨[], by simp [State.setAmountByte, State.setAmount], by simp⟩
    · exact ⟨(soundAEvents s.cfg s.prevA b).map .sound, by simp [State.soundA, State.setPrevA, State.emit], by simp⟩
    · exact ⟨[], by simp [State.feed, State.setReg], by simp⟩
    · exact ⟨(soundBEvents s.cfg s.prevB b).map .sound, by simp [State.soundB, State.setPrevB, State.emit], by simp⟩
    · exact ⟨[], by simp, by simp⟩
    · exact ⟨[], by simp, by simp⟩

/-! ### The frame events -/

/-- The second part of a publish with the lock free does nothing. -/
theorem writerFinish_free {s : State} (h : s.lock = .free) : s.writerFinish = s := by rw [State.writerFinish, h]

/-- The second part of a publish with the reader holding the lock does nothing. -/
theorem writerFinish_reader {s : State} (h : s.lock = .heldByReader) : s.writerFinish = s := by rw [State.writerFinish, h]

/-- The second part of a publish in progress writes its frame and frees the lock (rule R231). -/
theorem writerFinish_writer {s : State} {g : Frame} (h : s.lock = .heldByWriter g) :
    s.writerFinish = { s with mirror := g, lock := .free, trace := s.trace ++ [.published g] } := by
  rw [State.writerFinish, h]; rfl

/-- A publish with the lock free writes the mirror (rule R231). -/
theorem publishFrame_free {s : State} (h : s.lock = .free) (f : Frame) :
    s.publishFrame f = { s with mirror := f, trace := s.trace ++ [.published f] } := by
  rw [State.publishFrame, State.writerAcquire, h]
  simp only [State.writerFinish, State.setLock, State.setMirror, State.emit, ← h]

/-- A publish with the reader holding the lock is skipped (rule R231). -/
theorem publishFrame_reader {s : State} (h : s.lock = .heldByReader) (f : Frame) :
    s.publishFrame f = { s with trace := s.trace ++ [.publishSkipped] } := by
  rw [State.publishFrame, State.writerAcquire, h]
  simp only [State.writerFinish, State.emit, h]

/-- A publish by a thread that is in one completes that one first (log 22). -/
theorem publishFrame_writer {s : State} {g : Frame} (h : s.lock = .heldByWriter g) (f : Frame) :
    s.publishFrame f = { s with mirror := f, lock := .free, trace := s.trace ++ [.published g, .published f] } := by
  rw [State.publishFrame, State.writerAcquire, h]
  simp only [State.writerFinish, h, State.setLock, State.setMirror, State.emit, List.append_assoc]
  rfl

/-- A whole publish is its two parts one after the other (rule R231). -/
theorem publishFrame_parts (s : State) (f : Frame) : s.publishFrame f = (s.writerAcquire f).writerFinish := rfl

/-- The end of a read by the reader that holds the lock (rule R232). -/
theorem readerFinish_reader {s : State} (h : s.lock = .heldByReader) :
    s.readerFinish = { s with lock := .free, lastRead := some s.mirror, trace := s.trace ++ [.frameRead s.mirror] } := by
  rw [State.readerFinish, if_pos h]; rfl

/-- A reader that does not hold the lock ends no read. -/
theorem readerFinish_other {s : State} (h : s.lock ≠ .heldByReader) : s.readerFinish = s := by
  rw [State.readerFinish, if_neg h]

/-- Presenting the frame read last (rule R241). -/
theorem present_some {s : State} {f : Frame} (h : s.lastRead = some f) :
    s.present = s.emit [.presented f] := by rw [State.present, h]

/-- Before the first read there is nothing to present. -/
theorem present_none {s : State} (h : s.lastRead = none) : s.present = s := by rw [State.present, h]

/-- The end-of-frame event written out, by what holds the lock (rules R204, R212). -/
theorem endOfFrame_cases (s : State) :
    let u : State := { s with nextDisplay := clockAdd s.cfg s.nextDisplay s.cfg.framePeriodNs }
    (s.lock = .free ∧ s.endOfFrame = { u with
      mirror := s.convertFrame
      trace := s.trace ++ [.interrupt s.cfg.vecEof s.emuClock, .published s.convertFrame, .redraw] }) ∨
    (s.lock = .heldByReader ∧ s.endOfFrame = { u with
      trace := s.trace ++ [.interrupt s.cfg.vecEof s.emuClock, .publishSkipped, .redraw] }) ∨
    (∃ g, s.lock = .heldByWriter g ∧ s.endOfFrame = { u with
      mirror := s.convertFrame, lock := .free
      trace := s.trace ++
        [.interrupt s.cfg.vecEof s.emuClock, .published g, .published s.convertFrame, .redraw] }) := by
  simp only [State.endOfFrame]
  cases h : s.lock with
  | free =>
    refine .inl ⟨rfl, ?_⟩
    rw [publishFrame_free (by exact h)]
    simp only [State.raiseInterrupt, State.emit, State.setDisplayMark, List.append_assoc, h]
    rfl
  | heldByReader =>
    refine .inr (.inl ⟨rfl, ?_⟩)
    rw [publishFrame_reader (by exact h)]
    simp only [State.raiseInterrupt, State.emit, State.setDisplayMark, List.append_assoc, h]
    rfl
  | heldByWriter g =>
    refine .inr (.inr ⟨g, rfl, ?_⟩)
    rw [publishFrame_writer (by exact h)]
    simp only [State.raiseInterrupt, State.emit, State.setDisplayMark, List.append_assoc]
    rfl

/-- The mid-frame event written out (rule R206). -/
theorem midFrame_eq (s : State) :
    s.midFrame = { s with
      nextScreen := clockAdd s.cfg s.nextScreen s.cfg.framePeriodNs
      trace := s.trace ++ [.interrupt s.cfg.vecMid s.emuClock] } := rfl

/-- Which event an iteration takes (rules R201, R207). -/
theorem frameEvent_cases (s : State) :
    (s.nextDisplay ≤ s.emuClock ∧ s.frameEvent = s.endOfFrame) ∨
    (s.emuClock < s.nextDisplay ∧ s.nextScreen ≤ s.emuClock ∧ s.frameEvent = s.midFrame) ∨
    (s.emuClock < s.nextDisplay ∧ s.emuClock < s.nextScreen ∧ s.frameEvent = s) := by
  simp only [State.frameEvent]
  split
  · left; simp [*]
  · split
    · right; left; simp [*]; omega
    · right; right; simp [*]; omega

/-- An iteration that completes: the state before its frame event, in which the marks, the mirror, the lock and everything the
presentation thread owns are as before the iteration, and the event. -/
theorem iteration_cases {s t : State} {x : EngineAnswer} (h : s.iteration x = some t) :
    ∃ (u : State) (os : List Output), t = u.frameEvent ∧
      u = { s with
        mem := u.mem, srReg := u.srReg, srAmount := u.srAmount, prevA := u.prevA, prevB := u.prevB
        emuClock := clockAdd s.cfg s.emuClock (stepNs s.cfg x.cycles)
        batchStepsDone := s.batchStepsDone + 1
        batchNs := s.batchNs + stepNs s.cfg x.cycles
        programSealed := true
        trace := s.trace ++ os } ∧
      ∀ o ∈ os, (∃ bs, o = .memBytes bs) ∨ (∃ e, o = .sound e) ∨ ∃ b, o = .writeInput b := by
  simp only [State.iteration] at h
  split at h
  · rename_i v hv
    cases h
    obtain ⟨os1, h1, k1⟩ := memOps_frame hv
    obtain ⟨os2, h2, k2⟩ := dispatch_frame (v.advanceClock x.cycles) x.request
    have e1 : (v.advanceClock x.cycles).trace = s.trace ++ os1 := by
      simp only [State.advanceClock, State.setBatch_trace, State.setClock_trace]; rw [h1]; rfl
    refine ⟨(v.advanceClock x.cycles).dispatch x.request, os1 ++ os2, rfl, ?_, ?_⟩
    · rw [h2, e1]
      simp only [State.advanceClock, State.setClock, State.setBatch, List.append_assoc]
      rw [h1]
      rfl
    · simp only [List.mem_append]; rintro o (ho | ho)
      · exact .inl (k1 o ho)
      · exact .inr (k2 o ho)
  · cases h

end Sys2Proof.Machine
end

