-- ==== Sys2Proof/Laws/PerInstr.lean ====
section
/-! SUPPORT. Family TableRow: the request that asks for a well-formed operation under the recommended configuration carries the
selector of the operation's row of spec/opcode_table.json. -/

namespace Sys2Proof.Laws.TableRow

/-- The format, the match and the mask of an operation's row, copied from the table. -/
def row : Instr → Kind × Nat × Nat
  | .outShiftAmount _ => (.io, 0x102, 0x1FF)
  | .outSoundBankA _ => (.io, 0x103, 0x1FF)
  | .outShiftData _ => (.io, 0x104, 0x1FF)
  | .outSoundBankB _ => (.io, 0x105, 0x1FF)
  | .outWatchdog _ => (.io, 0x106, 0x1FF)
  | .outOther _ _ => (.io, 0x100, 0x100)
  | .inSystem => (.io, 0x000, 0x1FF)
  | .inPlayer1 => (.io, 0x001, 0x1FF)
  | .inPlayer2 => (.io, 0x002, 0x1FF)
  | .inShiftResult => (.io, 0x003, 0x1FF)
  | .inOther _ => (.io, 0x000, 0x100)
  | .regionProgram _ _ => (.mem, 0x0000, 0x2000)
  | .regionWorking _ _ => (.mem, 0x2000, 0x3C00)
  | .regionVideo2400 _ _ => (.mem, 0x2400, 0x3C00)
  | .regionVideo2800 _ _ => (.mem, 0x2800, 0x3800)
  | .regionVideo3000 _ _ => (.mem, 0x3000, 0x3000)
  | .srFeed _ => (.op, 0x01, 0xFF)
  | .srSetAmount _ => (.op, 0x02, 0xFF)
  | .srRead => (.op, 0x03, 0xFF)
  | .readByte _ => (.op, 0x10, 0xFF)
  | .writeByte _ _ => (.op, 0x11, 0xFF)
  | .readBytes _ _ => (.op, 0x12, 0xFF)
  | .writeBytes _ _ => (.op, 0x13, 0xFF)
  | .loadProgram _ => (.op, 0x14, 0xFF)
  | .convert => (.op, 0x20, 0xFF)
  | .schedIteration _ => (.op, 0x21, 0xFF)
  | .schedBatch _ => (.op, 0x22, 0xFF)
  | .publish _ _ => (.op, 0x30, 0xFF)
  | .readFrame _ => (.op, 0x31, 0xFF)
  | .latchSet _ _ => (.op, 0x32, 0xFF)
  | .latchClear _ _ => (.op, 0x33, 0xFF)
  | .runClear => (.op, 0x34, 0xFF)

/-- The first two bytes of a request as one number, the first byte the low one. -/
def firstWord (r : Request) : BitVec 16 := r.bytes.getD 1 0 ++ r.bytes.getD 0 0

/-- The selector of the operation's request matches its row. -/
def Statement (i : Instr) : Prop :=
  i.wf Config.recommended = true →
    (encode Config.recommended i).kind = (row i).1 ∧
    firstWord (encode Config.recommended i) &&& BitVec.ofNat 16 (row i).2.2 = BitVec.ofNat 16 (row i).2.1

/-- The first word of a memory access is its address. -/
theorem firstWord_mem (a : Addr) (x : Access) : firstWord (memRequest a x) = a := by
  have h : firstWord (memRequest a x) = a.extractLsb' 8 8 ++ a.setWidth 8 := by cases x <;> rfl
  rw [h]
  apply BitVec.eq_of_toNat_eq
  simp only [BitVec.toNat_append, BitVec.extractLsb'_toNat, BitVec.toNat_setWidth]
  rw [← Nat.shiftLeft_add_eq_or_of_lt (by omega)]
  simp only [Nat.shiftLeft_eq, Nat.shiftRight_eq_div_pow]
  omega

/-- An operation id fills the low byte of the first word. -/
theorem firstWord_op (id : Byte) (rest : List Byte) :
    firstWord ⟨.op, id :: rest⟩ &&& BitVec.ofNat 16 0xFF = id.setWidth 16 := by
  simp only [firstWord, List.getD_cons_zero]
  generalize List.getD (id :: rest) 1 0 = hi
  apply BitVec.eq_of_toNat_eq
  simp only [BitVec.toNat_and, BitVec.toNat_append, BitVec.toNat_ofNat, BitVec.toNat_setWidth]
  rw [show 0xFF % 2 ^ 16 = 2 ^ 8 - 1 from rfl, Nat.and_two_pow_sub_one_eq_mod, ← Nat.shiftLeft_add_eq_or_of_lt (by omega)]
  simp only [Nat.shiftLeft_eq]
  omega

/-- The direction bit of a request's first word is the direction, whatever the port. -/
theorem firstWord_selector (d : Direction) (port : Port) (rest : List Byte) :
    firstWord ⟨.io, encodeSelector d port ++ rest⟩ &&& 0x100 = BitVec.ofNat 16 (0x100 * d.bit) := by
  have key : ∀ low : Byte, ((0 : Byte) ++ low) &&& (0x100 : BitVec 16) = 0 ∧ ((1 : Byte) ++ low) &&& (0x100 : BitVec 16) = 0x100 ∧
    ((2 : Byte) ++ low) &&& (0x100 : BitVec 16) = 0 ∧ ((3 : Byte) ++ low) &&& (0x100 : BitVec 16) = 0x100 := by decide
  obtain ⟨k0, k1, k2, k3⟩ := key (BitVec.ofNat 8 port)
  unfold encodeSelector
  cases d <;> split_ifs
  · exact k0
  · exact k2
  · exact k1
  · exact k3

theorem outShiftAmount (b : Byte) : Statement (.outShiftAmount b) := fun _ =>
  ⟨rfl, by show ((1 : Byte) ++ (2 : Byte)) &&& (0x1FF : BitVec 16) = 0x102; decide⟩
theorem outSoundBankA (b : Byte) : Statement (.outSoundBankA b) := fun _ =>
  ⟨rfl, by show ((1 : Byte) ++ (3 : Byte)) &&& (0x1FF : BitVec 16) = 0x103; decide⟩
theorem outShiftData (b : Byte) : Statement (.outShiftData b) := fun _ =>
  ⟨rfl, by show ((1 : Byte) ++ (4 : Byte)) &&& (0x1FF : BitVec 16) = 0x104; decide⟩
theorem outSoundBankB (b : Byte) : Statement (.outSoundBankB b) := fun _ =>
  ⟨rfl, by show ((1 : Byte) ++ (5 : Byte)) &&& (0x1FF : BitVec 16) = 0x105; decide⟩
theorem outWatchdog (b : Byte) : Statement (.outWatchdog b) := fun _ =>
  ⟨rfl, by show ((1 : Byte) ++ (6 : Byte)) &&& (0x1FF : BitVec 16) = 0x106; decide⟩
theorem outOther (p : Port) (b : Byte) : Statement (.outOther p b) := fun _ =>
  ⟨rfl, firstWord_selector .output p [b]⟩
theorem inSystem : Statement .inSystem := fun _ =>
  ⟨rfl, by show ((0 : Byte) ++ (0 : Byte)) &&& (0x1FF : BitVec 16) = 0; decide⟩
theorem inPlayer1 : Statement .inPlayer1 := fun _ =>
  ⟨rfl, by show ((0 : Byte) ++ (1 : Byte)) &&& (0x1FF : BitVec 16) = 1; decide⟩
theorem inPlayer2 : Statement .inPlayer2 := fun _ =>
  ⟨rfl, by show ((0 : Byte) ++ (2 : Byte)) &&& (0x1FF : BitVec 16) = 2; decide⟩
theorem inShiftResult : Statement .inShiftResult := fun _ =>
  ⟨rfl, by show ((0 : Byte) ++ (3 : Byte)) &&& (0x1FF : BitVec 16) = 3; decide⟩
theorem inOther (p : Port) : Statement (.inOther p) := fun _ =>
  ⟨rfl, by simpa [encode, inRequest, row, Direction.bit] using firstWord_selector .input p []⟩
theorem regionProgram (a : Addr) (x : Access) : Statement (.regionProgram a x) := fun h =>
  ⟨rfl, by
    simp only [Instr.wf, memRow] at h
    show firstWord (memRequest a x) &&& _ = _
    rw [firstWord_mem]
    split_ifs at h <;> first | assumption | (simp at h)⟩
theorem regionWorking (a : Addr) (x : Access) : Statement (.regionWorking a x) := fun h =>
  ⟨rfl, by
    simp only [Instr.wf, memRow] at h
    show firstWord (memRequest a x) &&& _ = _
    rw [firstWord_mem]
    split_ifs at h <;> first | assumption | (simp at h)⟩
theorem regionVideo2400 (a : Addr) (x : Access) : Statement (.regionVideo2400 a x) := fun h =>
  ⟨rfl, by
    simp only [Instr.wf, memRow] at h
    show firstWord (memRequest a x) &&& _ = _
    rw [firstWord_mem]
    split_ifs at h <;> first | assumption | (simp at h)⟩
theorem regionVideo2800 (a : Addr) (x : Access) : Statement (.regionVideo2800 a x) := fun h =>
  ⟨rfl, by
    simp only [Instr.wf, memRow] at h
    show firstWord (memRequest a x) &&& _ = _
    rw [firstWord_mem]
    split_ifs at h <;> first | assumption | (simp at h)⟩

/-- An address that matches no earlier row has both bits 13 and 12 set. -/
theorem and_3000_of_no_row (a : Addr) (h1 : ¬ a &&& 0x2000 = 0) (h2 : ¬ a &&& 0x3C00 = 0x2000)
    (h3 : ¬ a &&& 0x3C00 = 0x2400) (h4 : ¬ a &&& 0x3800 = 0x2800) : a &&& 0x3000 = 0x3000 := by
  have key : ∀ b : BitVec 4, ¬ b &&& 8 = 0 → ¬ b = 8 → ¬ b = 9 → ¬ b &&& 14 = 10 → b &&& 12 = 12 := by decide
  have bit : ∀ m : BitVec 4, a &&& (m.setWidth 16 <<< 10) = (a.extractLsb' 10 4 &&& m).setWidth 16 <<< 10 := by
    intro m
    ext i hi
    simp only [BitVec.getElem_and, BitVec.getElem_shiftLeft, BitVec.getElem_setWidth, BitVec.getLsbD_and,
      BitVec.getLsbD_extractLsb']
    by_cases h : i < 10
    · simp [h]
    · by_cases h' : i < 14
      · have : 10 + (i - 10) = i := by omega
        simp [h, this, show i - 10 < 4 by omega, BitVec.getLsbD_eq_getElem hi]
      · simp [h, BitVec.getLsbD_of_ge m (i - 10) (by omega)]
  have k := key (a.extractLsb' 10 4)
    (fun e => h1 (by have := bit 8; rw [e] at this; exact this))
    (fun e => h2 (by have := bit 15; rw [show a.extractLsb' 10 4 &&& 15 = a.extractLsb' 10 4 by rw [e]; rfl, e] at this; exact this))
    (fun e => h3 (by have := bit 15; rw [show a.extractLsb' 10 4 &&& 15 = a.extractLsb' 10 4 by rw [e]; rfl, e] at this; exact this))
    (fun e => h4 (by have := bit 14; rw [e] at this; exact this))
  have := bit 12
  rw [k] at this
  exact this

theorem regionVideo3000 (a : Addr) (x : Access) : Statement (.regionVideo3000 a x) := fun h =>
  ⟨rfl, by
    simp only [Instr.wf, memRow] at h
    show firstWord (memRequest a x) &&& _ = _
    rw [firstWord_mem]
    split_ifs at h <;> first | (simp at h; done) | exact and_3000_of_no_row a ‹_› ‹_› ‹_› ‹_›⟩
theorem srFeed (b : Byte) : Statement (.srFeed b) := fun _ => ⟨rfl, firstWord_op _ _⟩
theorem srSetAmount (n : Byte) : Statement (.srSetAmount n) := fun _ => ⟨rfl, firstWord_op _ _⟩
theorem srRead : Statement .srRead := fun _ => ⟨rfl, firstWord_op _ _⟩
theorem readByte (a : Addr) : Statement (.readByte a) := fun _ => ⟨rfl, firstWord_op _ _⟩
theorem writeByte (a : Addr) (b : Byte) : Statement (.writeByte a b) := fun _ => ⟨rfl, firstWord_op _ _⟩
theorem readBytes (a : Addr) (n : Nat) : Statement (.readBytes a n) := fun _ => ⟨rfl, firstWord_op _ _⟩
theorem writeBytes (a : Addr) (v : List Byte) : Statement (.writeBytes a v) := fun _ => ⟨rfl, firstWord_op _ _⟩
theorem loadProgram (im : Image) : Statement (.loadProgram im) := fun _ => ⟨rfl, firstWord_op _ _⟩
theorem convert : Statement .convert := fun _ => ⟨rfl, firstWord_op _ _⟩
theorem schedIteration (x : EngineAnswer) : Statement (.schedIteration x) := fun _ => ⟨rfl, firstWord_op _ _⟩
theorem schedBatch (xs : List EngineAnswer) : Statement (.schedBatch xs) := fun _ => ⟨rfl, firstWord_op _ _⟩
theorem publish (f : FrameSource) (p : PublishPart) : Statement (.publish f p) := fun _ => ⟨rfl, firstWord_op _ _⟩
theorem readFrame (p : ReadPart) : Statement (.readFrame p) := fun _ => ⟨rfl, firstWord_op _ _⟩
theorem latchSet (l : Latch) (k : Fin 8) : Statement (.latchSet l k) := fun _ => ⟨rfl, firstWord_op _ _⟩
theorem latchClear (l : Latch) (k : Fin 8) : Statement (.latchClear l k) := fun _ => ⟨rfl, firstWord_op _ _⟩
theorem runClear : Statement .runClear := fun _ => ⟨rfl, firstWord_op _ _⟩

end Sys2Proof.Laws.TableRow
end

