-- ==== Sys2Proof/Laws/Threads.lean ====
section
/-! SUPPORT. What a step can do, said once: the moves a thread makes by itself, what comes before a requested operation, and that
`withFetchWord` leaves nothing before it. -/

namespace Sys2Proof.Machine

@[simp] theorem beginBatch_lock (s : State) : s.beginBatch.lock = s.lock := by
  rw [State.beginBatch]; split <;> rfl
@[simp] theorem beginBatch_run (s : State) : s.beginBatch.run = s.run := by
  rw [State.beginBatch]; split <;> rfl

/-- Beginning a batch changes at most the pacing counters. -/
theorem beginBatch_frame (s : State) :
    s.beginBatch = { s with batchStepsDone := s.beginBatch.batchStepsDone, batchNs := s.beginBatch.batchNs } := by
  rw [State.beginBatch]; split <;> rfl

/-- A publish is in progress exactly where the writer holds the lock. -/
theorem publishing_iff (s : State) : s.publishing = true ↔ ∃ g, s.lock = .heldByWriter g := by
  rw [State.publishing]; cases s.lock <;> simp

/-- Readying an operation changes at most the pacing counters and the closing of the program store. -/
theorem ready_frame (i : Instr) (s : State) :
    s.ready i = { s with
      batchStepsDone := (s.ready i).batchStepsDone, batchNs := (s.ready i).batchNs
      programSealed := (s.ready i).programSealed } := by
  rw [State.ready]
  split
  · split
    · rw [beginBatch_frame]; rfl
    · rfl
  · rfl
  · rfl

/-- A batch is no second part of a publish. -/
theorem isFinish_of_isBatch {i : Instr} (h : isBatch i = true) : isFinish i = false := by
  cases i <;> first | rfl | cases h

/-- What a thread may have to do before a requested operation. -/
theorem unfinished_cases (i : Instr) (s : State) :
    unfinished i s = none ∨
    (agentOf i = .emulation ∧ isFinish i = false ∧ s.publishing = true ∧ unfinished i s = some (.next s.writerFinish)) ∨
    (isBatch i = true ∧ s.atBatchBoundary = false ∧ s.publishing = false ∧ unfinished i s = some s.ownIteration) ∨
    (agentOf i = .presentation ∧ isRead i = false ∧ s.lock = .free ∧ s.readerWaiting = true ∧
      unfinished i s = some (.next s.readerAcquire)) ∨
    (agentOf i = .presentation ∧ isRead i = false ∧ s.lock = .heldByReader ∧ unfinished i s = some (.next s.readerFinish)) ∨
    (agentOf i = .presentation ∧ s.publishing = true ∧ (isRead i = true ∨ s.readerWaiting = true) ∧
      unfinished i s = some (.next (s.setWaiting true).writerFinish)) := by
  unfold unfinished
  cases ha : agentOf i with
  | startUp => exact .inl rfl
  | emulation =>
    dsimp only
    split
    · rename_i h
      simp only [Bool.and_eq_true, Bool.not_eq_true'] at h
      exact .inr (.inl ⟨rfl, h.2, h.1, rfl⟩)
    · rename_i h
      split
      · rename_i hb
        simp only [Bool.and_eq_true, Bool.not_eq_true'] at hb
        refine .inr (.inr (.inl ⟨hb.1, hb.2, ?_, rfl⟩))
        cases hp : s.publishing with
        | false => rfl
        | true =>
          refine absurd ?_ h
          rw [hp, isFinish_of_isBatch hb.1]; rfl
      · exact .inl rfl
  | presentation =>
    cases hl : s.lock with
    | free =>
      dsimp only
      split
      · rename_i h
        simp only [Bool.and_eq_true, Bool.not_eq_true'] at h
        exact .inr (.inr (.inr (.inl ⟨rfl, h.2, rfl, h.1, rfl⟩)))
      · exact .inl rfl
    | heldByReader =>
      dsimp only
      split
      · exact .inl rfl
      · rename_i h
        exact .inr (.inr (.inr (.inr (.inl ⟨rfl, by simpa using h, rfl, rfl⟩))))
    | heldByWriter g =>
      dsimp only
      split
      · rename_i h
        refine .inr (.inr (.inr (.inr (.inr ⟨rfl, (publishing_iff s).2 ⟨g, hl⟩, ?_, rfl⟩))))
        simp only [Bool.or_eq_true] at h
        exact h.symm
      · exact .inl rfl

/-- The moves that complete what a thread has begun. -/
inductive Completes (s : State) : State → Prop where
  | publish (h : s.publishing = true) : Completes s s.writerFinish
  | readAcquire (h : s.lock = .free) : Completes s s.readerAcquire
  | read (h : s.lock = .heldByReader) : Completes s s.readerFinish
  | publishForReader (h : s.publishing = true) : Completes s (s.setWaiting true).writerFinish

/-- A step that leaves a state either performs the requested operation on the readied state, or drops the request of a thread
that does not exist, or completes what a thread has begun, or is the emulation thread's own iteration, or changes nothing. -/
theorem step_cases {s t : State} (h : step s = .next t) :
    (∃ i rest, i.wf s.cfg = true ∧ exec i ((s.setRequests rest).ready i) = .next t) ∨
    (∃ rest, s.emulationEnded = true ∧ s.publishing = false ∧ t = s.setRequests rest) ∨
    Completes s t ∨
    (s.emulationEnded = false ∧ s.publishing = false ∧ s.ownIteration = .next t) ∨
    (s.requests = [] ∧ s.emulationEnded = true ∧ t = s) := by
  simp only [step] at h
  split at h
  · cases h
  · rename_i hf
    have hr : s.requests = [] := by
      simp only [fetch] at hf
      split at hf
      · assumption
      · split at hf
        · cases hf
        · split at hf <;> cases hf
    simp only [emulationMove] at h
    split at h
    · rename_i hp; cases h; exact .inr (.inr (.inl (.publish hp)))
    · rename_i hp
      split at h
      · rename_i he; cases h; exact .inr (.inr (.inr (.inr ⟨hr, he, rfl⟩)))
      · rename_i he
        exact .inr (.inr (.inr (.inl ⟨by simpa using he, by simpa using hp, h⟩)))
  · rename_i i u hf
    obtain ⟨rest, hw, rfl⟩ : ∃ rest, i.wf s.cfg = true ∧ u = s.setRequests rest := by
      simp only [fetch] at hf
      split at hf
      · cases hf
      · split at hf
        · cases hf
        · split at hf
          · rename_i hw; cases hf; exact ⟨_, hw, rfl⟩
          · cases hf
    simp only [turn] at h
    rcases unfinished_cases i s with e | ⟨-, -, hp, e⟩ | ⟨-, hb, hp, e⟩ | ⟨-, -, hl, -, e⟩ | ⟨-, -, hl, e⟩ | ⟨-, hp, -, e⟩ <;>
      simp only [e] at h
    · cases hi : s.inert i with
      | true =>
        simp only [hi, if_true] at h
        simp only [State.inert, Bool.and_eq_true, Bool.not_eq_true'] at hi
        cases h; exact .inr (.inl ⟨rest, hi.1.2, hi.2, rfl⟩)
      | false =>
        simp only [hi, Bool.false_eq_true, if_false] at h
        exact .inl ⟨i, rest, hw, h⟩
    · cases h; exact .inr (.inr (.inl (.publish hp)))
    · refine .inr (.inr (.inr (.inl ⟨?_, hp, h⟩)))
      simp [State.emulationEnded, hb]
    · cases h; exact .inr (.inr (.inl (.readAcquire hl)))
    · cases h; exact .inr (.inr (.inl (.read hl)))
    · cases h; exact .inr (.inr (.inl (.publishForReader hp)))

/-- Where everything is out of an operation's way, a step that finds its request first performs it. -/
theorem turn_clearedFor (i : Instr) (s t : State) (q : List Request) :
    turn i ((s.clearedFor i).setRequests q) t = .ok (t.ready i) := by
  have key : unfinished i ((s.clearedFor i).setRequests q) = none ∧
      ((s.clearedFor i).setRequests q).inert i = false := by
    unfold State.clearedFor
    cases ha : agentOf i with
    | startUp => simp [unfinished, State.inert, ha]
    | emulation =>
      dsimp only
      have h1 : ((s.noOpenPublish i).publishing && !isFinish i) = false := by
        rw [State.noOpenPublish]; split
        · rfl
        · exact Bool.eq_false_iff.2 ‹_›
      generalize s.noOpenPublish i = s1 at h1
      have h2 : ((s1.noOpenBatch i).publishing && !isFinish i) = false ∧
          (isBatch i && !(s1.noOpenBatch i).atBatchBoundary) = false := by
        rw [State.noOpenBatch]; split
        · exact ⟨h1, by simp [State.atBatchBoundary]⟩
        · exact ⟨h1, Bool.eq_false_iff.2 ‹_›⟩
      generalize s1.noOpenBatch i = s2 at h2
      have h3 : ((s2.alive i).publishing && !isFinish i) = false ∧
          (isBatch i && !(s2.alive i).atBatchBoundary) = false ∧ (s2.alive i).inert i = false := by
        rw [State.alive]; split
        · exact ⟨h2.1, h2.2, by simp [State.inert, State.emulationEnded]⟩
        · exact ⟨h2.1, h2.2, Bool.eq_false_iff.2 ‹_›⟩
      generalize s2.alive i = s3 at h3
      refine ⟨?_, h3.2.2⟩
      rw [unfinished, ha]
      show (if (s3.publishing && !isFinish i) = true then _ else
        if (isBatch i && !s3.atBatchBoundary) = true then _ else _) = _
      rw [h3.1, h3.2.1]; rfl
    | presentation =>
      refine ⟨?_, by simp [State.inert, ha]⟩
      unfold State.noOpenRead unfinished
      cases hl : s.lock <;> cases hb : isRead i <;>
        simp [State.publishing, hl, ha]
  rw [turn, key.1]
  simp [key.2]

@[simp] theorem clearedFor_cfg (i : Instr) (s : State) : (s.clearedFor i).cfg = s.cfg := by
  rw [State.clearedFor]
  split
  · have h1 : (s.noOpenPublish i).cfg = s.cfg := by rw [State.noOpenPublish]; split <;> rfl
    have h2 : ((s.noOpenPublish i).noOpenBatch i).cfg = s.cfg := by rw [State.noOpenBatch]; split <;> exact h1
    rw [State.alive]; split <;> exact h2
  · rw [State.noOpenRead]; split_ifs <;> rfl
  · rfl

/-- The request put first is the one fetched. -/
theorem fetch_pushRequest {s : State} {r : Request} {i : Instr} (h : decode s.cfg r = .ok i) (hw : i.wf s.cfg = true) :
    fetch (s.pushRequest r) = .ok (some (i, s)) := by
  show (match decode s.cfg r with
    | .error e => _
    | .ok i => if i.wf s.cfg then _ else _) = _
  rw [h]
  simp only [hw, if_true]
  rfl

/-- What `withFetchWord` promises: the very next step performs the operation of the request put first. -/
theorem step_withRequest {s : State} {r : Request} {i : Instr} (h : decode s.cfg r = .ok i) (hw : i.wf s.cfg = true) :
    step (s.withRequest r) = exec i ((s.clearedFor i).ready i) := by
  rw [State.withRequest, h]
  show step ((s.clearedFor i).pushRequest r) = _
  rw [step, fetch_pushRequest (by simpa using h) (by simpa using hw)]
  show (match turn i ((s.clearedFor i).setRequests (r :: (s.clearedFor i).requests)) (s.clearedFor i) with
    | .error r => r
    | .ok u => exec i u) = _
  rw [turn_clearedFor]

end Sys2Proof.Machine
end

