-- ==== Sys2Proof/Tests/Slice0.lean ====
section
/-! SUPPORT. Tests. Expected values come from the spec: the test vectors V1 to V60 and programs P1 to P7 of 95_test_vectors.md,
and the examples of the rules. Three parts: the checks of `Instr.wf`, one written-out word for each row of the opcode table, one
or two steps for each operation; then one witness for the hypotheses of each obligation that has any. -/

namespace Sys2Proof.Tests

open Sys2Proof.Machine

/-- The toy configuration: the geometry of V32(a), the time constants of V42, `BATCH_STEPS` of V52. -/
def toy : Config :=
  { Config.recommended with
    videoSize := 2, fastLen := 8, slowLen := 2, nsPerCycle := 10, framePeriodNs := 100, midOffsetNs := 40, batchSteps := 3 }

/-- Reset under the toy configuration. -/
def start : State := State.resetWith toy true

/-- Reset under the recommended configuration (V60). -/
def reset : State := State.reset

/-- The state an operation leaves, if it leaves one. -/
def after (i : Instr) (s : State) : Option State :=
  match exec i s with
  | .next t => some t
  | _ => none

/-- The state after some operations. -/
def run (is : List Instr) (s : State) : Option State :=
  match runOps is s with
  | .next t => some t
  | _ => none

/-- The outputs of an operation. -/
def outputs (i : Instr) (s : State) : Option (List Output) := (after i s).map (·.trace)

/-- The reason of a refusal. -/
def refusal (i : Instr) (s : State) : Option Refusal :=
  match exec i s with
  | .refused r => some r
  | _ => none

/-- The reason of a fault. -/
def fault (r : Result) : Option Fault :=
  match r with
  | .fault r => some r
  | _ => none

/-- What a request decodes to under the recommended configuration. -/
def decoded (r : Request) : Option Instr := (decode Config.recommended r).toOption

/-! ### Ill-formed operations (rules R91, R161, R168, R213, R231; log 17) -/

theorem test_wf_out_other_configured_port :
    [2, 3, 4, 5, 6].all (fun p => !(Instr.outOther p 0).wf Config.recommended) = true := by decide
theorem test_wf_in_other_configured_port :
    [0, 1, 2, 3].all (fun p => !(Instr.inOther p).wf Config.recommended) = true := by decide
theorem test_wf_region_program_elsewhere : (Instr.regionProgram 0x2000 .read).wf Config.recommended = false := by decide
theorem test_wf_region_working_elsewhere : (Instr.regionWorking 0x2400 .read).wf Config.recommended = false := by decide
theorem test_wf_region_video2400_elsewhere : (Instr.regionVideo2400 0x2800 .read).wf Config.recommended = false := by decide
theorem test_wf_region_video2800_elsewhere : (Instr.regionVideo2800 0x27FF .read).wf Config.recommended = false := by decide
theorem test_wf_region_video3000_elsewhere : (Instr.regionVideo3000 0x2FFF .read).wf Config.recommended = false := by decide
theorem test_wf_image_unordered : (Instr.loadProgram ⟨8, [(2, 1), (1, 1)]⟩).wf Config.recommended = false := by decide
theorem test_wf_image_beyond_end : (Instr.loadProgram ⟨8, [(8, 1)]⟩).wf Config.recommended = false := by decide
theorem test_wf_image_lists_zero : (Instr.loadProgram ⟨8, [(1, 0)]⟩).wf Config.recommended = false := by decide
theorem test_wf_batch_too_short : (Instr.schedBatch [⟨1, [], .idle⟩]).wf toy = false := by decide
theorem test_wf_frame_wrong_size : [Instr.publish (.given [toy.pixelWhite]) .whole, .publish (.given []) .acquire,
    .publish (.given (List.replicate 16 toy.pixelWhite)) .finish].all (fun i => !i.wf toy) = true := by decide
theorem test_wf_accepts : [Instr.outOther 7 0, .inOther 9, .outOther 258 0, .inOther 256, .regionProgram 0x5FFF .read,
    .regionVideo3000 0xFFFF (.write 1), .loadProgram ⟨8, [(1, 1), (7, 2)]⟩, .publish .fresh .whole, .publish .fresh .finish].all (·.wf toy) = true := by decide

/-! ### Decoding: selectors of rules R91, R93 to R95, R105, then the operands of log 1 -/

theorem test_decode_out_shift_amount : decoded ⟨.io, [0x02, 0x01, 0xFA]⟩ = some (.outShiftAmount 0xFA) := by decide
theorem test_decode_out_sound_bank_a : decoded ⟨.io, [0x03, 0x01, 0x03]⟩ = some (.outSoundBankA 0x03) := by decide
theorem test_decode_out_shift_data : decoded ⟨.io, [0x04, 0x01, 0xAA]⟩ = some (.outShiftData 0xAA) := by decide
theorem test_decode_out_sound_bank_b : decoded ⟨.io, [0x05, 0x01, 0x12]⟩ = some (.outSoundBankB 0x12) := by decide
theorem test_decode_out_watchdog : decoded ⟨.io, [0x06, 0x01, 0xFF]⟩ = some (.outWatchdog 0xFF) := by decide
theorem test_decode_out_other : decoded ⟨.io, [0x01, 0x01, 0xFF]⟩ = some (.outOther 1 0xFF) := by decide
theorem test_decode_in_system : decoded ⟨.io, [0x00, 0x00]⟩ = some .inSystem := by decide
theorem test_decode_in_player_1 : decoded ⟨.io, [0x01, 0x00]⟩ = some .inPlayer1 := by decide
theorem test_decode_in_player_2 : decoded ⟨.io, [0x02, 0x00]⟩ = some .inPlayer2 := by decide
theorem test_decode_in_shift_result : decoded ⟨.io, [0x03, 0x00]⟩ = some .inShiftResult := by decide
theorem test_decode_in_other : decoded ⟨.io, [0xC8, 0x00]⟩ = some (.inOther 200) := by decide
/-- Ports above 255 (R84): 300 = 256 + 0x2C is unknown in the recommended configuration; one that numbers a port so finds it. -/
theorem test_decode_wide_ports :
    (decoded ⟨.io, [0x2C, 0x03, 0x01, 0xFF]⟩ = some (.outOther 300 0xFF) ∧ decoded ⟨.io, [0x02, 0x02, 0x01]⟩ = some (.inOther 258)) ∧
    (decode { toy with portOutShiftData := 300 } ⟨.io, [0x2C, 0x03, 0x01, 0xAA]⟩).toOption = some (.outShiftData 0xAA) := by decide
theorem test_decode_region_program : decoded ⟨.mem, [0x23, 0xC1, 0x00]⟩ = some (.regionProgram 0xC123 .read) := by decide
theorem test_decode_region_working : decoded ⟨.mem, [0xFF, 0xA3, 0x01, 0x11]⟩ = some (.regionWorking 0xA3FF (.write 0x11)) := by
  decide
theorem test_decode_region_video2400 : decoded ⟨.mem, [0x00, 0xE4, 0x00]⟩ = some (.regionVideo2400 0xE400 .read) := by decide
theorem test_decode_region_video2800 : decoded ⟨.mem, [0xFF, 0x2F, 0x00]⟩ = some (.regionVideo2800 0x2FFF .read) := by decide
theorem test_decode_region_video3000 : decoded ⟨.mem, [0xFF, 0xFF, 0x01, 0x80]⟩ = some (.regionVideo3000 0xFFFF (.write 0x80)) := by
  decide
theorem test_decode_sr_feed : decoded ⟨.op, [0x01, 0x12]⟩ = some (.srFeed 0x12) := by decide
theorem test_decode_sr_set_amount : decoded ⟨.op, [0x02, 0x0A]⟩ = some (.srSetAmount 0x0A) := by decide
theorem test_decode_sr_read : decoded ⟨.op, [0x03]⟩ = some .srRead := by decide
theorem test_decode_read_byte : decoded ⟨.op, [0x10, 0x00, 0xA0]⟩ = some (.readByte 0xA000) := by decide
theorem test_decode_write_byte : decoded ⟨.op, [0x11, 0x00, 0x20, 0x5A]⟩ = some (.writeByte 0x2000 0x5A) := by decide
theorem test_decode_read_bytes : decoded ⟨.op, [0x12, 0x00, 0x24, 0x80, 0x02]⟩ = some (.readBytes 0x2400 256) := by decide
theorem test_decode_write_bytes : decoded ⟨.op, [0x13, 0x00, 0x24, 0x02, 0x01, 0x80]⟩ = some (.writeBytes 0x2400 [0x01, 0x80]) := by
  decide
theorem test_decode_load_program : decoded ⟨.op, [0x14, 0x00, 0x01, 0x00, 0xC3]⟩ = some (.loadProgram ⟨0x2000, [(0, 0xC3)]⟩) := by
  decide
theorem test_decode_convert : decoded ⟨.op, [0x20]⟩ = some .convert := by decide
theorem test_decode_sched_iteration :
    decoded ⟨.op, [0x21, 0x03, 0x00, 0x01, 0x02, 0x01]⟩ = some (.schedIteration ⟨3, [], .output 2 1⟩) := by decide
theorem test_decode_sched_batch :
    decoded ⟨.op, [0x22, 0x01, 0x01, 0x01, 0x00, 0x24, 0x02, 0x00]⟩ =
      some (.schedBatch [⟨1, [.writeByte 0x2400 0x02], .idle⟩]) := by decide
theorem test_decode_publish : [[0x30, 0x00, 0x00], [0x30, 0x00, 0x01], [0x30, 0x00, 0x02]].map (fun bs => decoded ⟨.op, bs⟩) =
    [some (.publish .fresh .whole), some (.publish .fresh .acquire), some (.publish .fresh .finish)] := by decide
theorem test_decode_read_frame : [0x00, 0x01, 0x02, 0x03].map (fun b => decoded ⟨.op, [0x31, b]⟩) =
    [some (.readFrame .complete), some (.readFrame .acquire), some (.readFrame .present), none] := by decide
theorem test_decode_latch_set : decoded ⟨.op, [0x32, 0x01, 0x04]⟩ = some (.latchSet .p1 4) := by decide
theorem test_decode_latch_clear : decoded ⟨.op, [0x33, 0x00, 0x01]⟩ = some (.latchClear .sys 1) := by decide
theorem test_decode_run_clear : decoded ⟨.op, [0x34]⟩ = some .runClear := by decide
theorem test_decode_unlisted_ids :
    [0x00, 0x04, 0x0F, 0x15, 0x1F, 0x23, 0x2F, 0x35, 0xFF].all (fun k => (decoded ⟨.op, [k, 0, 0, 0]⟩).isNone) = true := by decide
theorem test_decode_rejects : [Request.mk .io [0x02, 0x02, 0], ⟨.io, [0x02, 0x04, 1]⟩, ⟨.io, [0x02, 0x01]⟩,
    ⟨.op, [0x32, 0x03, 0]⟩, ⟨.op, [0x32, 0, 0x08]⟩, ⟨.op, [0x34, 1]⟩].all (fun r => (decoded r).isNone) = true := by decide

/-! ### Shift register (V1, V5, V6, P1) -/

theorem test_feed : (run [.srFeed 0xAA, .srFeed 0xFF, .srFeed 0x12] reset).map (·.srReg) = some 0x12FF := by decide
theorem test_out_shift_data : (run [.outShiftData 0xAA, .outShiftData 0xFF] reset).map (·.srReg) = some 0xFFAA := by decide
theorem test_set_amount : (after (.srSetAmount 0xFA) reset).map (·.srAmount) = some 2 := by decide
theorem test_out_shift_amount : (after (.outShiftAmount 0xFB) reset).map (·.srAmount) = some 3 := by decide
theorem test_read_amount_2 : outputs .srRead { reset with srReg := 0x12FF, srAmount := 2 } = some [.shiftResult 0x4B] := by decide
theorem test_read_amount_0 : outputs .srRead { reset with srReg := 0x12FF, srAmount := 0 } = some [.shiftResult 0x12] := by decide
theorem test_in_shift_result_amount_7 :
    outputs .inShiftResult { reset with srReg := 0x12FF, srAmount := 7 } = some [.writeInput 0x7F] := by decide

/-! ### Ports (V9 to V14) -/

theorem test_sound_a_rises :
    outputs (.outSoundBankA 0x0F) reset =
      some [.sound .ufoLoopStart, .sound .shot, .sound .flash, .sound .invaderDie] := by decide
theorem test_sound_a_fall_and_rise :
    (after (.outSoundBankA 0x08) { reset with prevA := 0xF5 }).map (fun t => (t.prevA, t.trace)) =
      some (0x08, [.sound .ufoLoopStop, .sound .invaderDie]) := by decide
theorem test_sound_b_ignores_falls :
    (after (.outSoundBankB 0x12) { reset with prevB := 0x01 }).map (fun t => (t.prevB, t.trace)) =
      some (0x12, [.sound .fleetStep2, .sound .ufoHit]) := by decide
theorem test_extended_play_off :
    outputs (.outSoundBankA 0x10) (State.resetWith { toy with extendedPlayEvent := false } true) = some [] := by decide
theorem test_watchdog : (after (.outWatchdog 0xFF) start).map (fun t => (t.srReg, t.trace)) = some (0, []) := by decide
theorem test_out_other : (after (.outOther 7 0xFF) start).map (fun t => (t.prevA, t.trace)) = some (0, []) := by decide
theorem test_in_system : outputs .inSystem reset = some [.writeInput 0x0E] := by decide
theorem test_in_player_1 : (run [.latchSet .p1 4, .latchSet .p1 0, .inPlayer1] reset).map (·.trace) = some [.writeInput 0x19] := by
  decide
theorem test_in_player_2 : (run [.latchSet .p2 2, .inPlayer2] reset).map (·.trace) = some [.writeInput 0x04] := by decide
theorem test_in_other : [200, 256].map (fun p => outputs (.inOther p) reset) = [some [.writeInput 0x00], some [.writeInput 0x00]] := by decide

/-! ### Memory image (V2, V20 to V23, P3) -/

theorem test_read_byte_mirror : (run [.writeByte 0x2000 0x5A, .readByte 0xE000] reset).map (·.trace) = some [.memBytes [0x5A]] := by
  decide
theorem test_write_byte_mirror : (after (.writeByte 0xE400 0x81) reset).map (·.mem) = some [(0x2400, 0x81)] := by decide
theorem test_write_byte_program : (after (.writeByte 0x4000 0xFF) { reset with mem := [(0, 0xC3)] }).map (·.mem) = some [(0, 0xC3)] := by
  decide
theorem test_read_bytes : outputs (.readBytes 0x6400 2) { reset with mem := [(0x2400, 0x01), (0x2401, 0x80)] } =
    some [.memBytes [0x01, 0x80]] := by decide
theorem test_read_bytes_crossing :
    [refusal (.readBytes 0x23FE 3) reset, refusal (.readBytes 0x3FFF 2) reset, refusal (.readBytes 0x1FFF 2) reset].all
      (· == some .bulkCrossesRegion) = true := by decide
theorem test_write_bytes : (after (.writeBytes 0x2400 [0x01, 0x80]) reset).map (·.mem) = some [(0x2400, 0x01), (0x2401, 0x80)] := by
  decide
theorem test_write_bytes_program : (after (.writeBytes 0x0010 [1, 2, 3]) reset).map (·.mem) = some [] := by decide
theorem test_load_program :
    (after (.loadProgram ⟨0x2000, [(0, 0xC3), (0x1FFF, 0x76)]⟩) { reset with mem := [(0x2000, 1)] }).map (·.mem) =
      some [(0, 0xC3), (0x1FFF, 0x76)] := by decide
theorem test_load_program_wrong_length :
    [0x1FFF, 0x2001, 0].all (fun n => fault (exec (.loadProgram ⟨n, []⟩) reset) == some (.loadFailure n)) = true := by decide
theorem test_region_program : outputs (.regionProgram 0x8000 .read) { reset with mem := [(0, 0xC3)] } = some [.memBytes [0xC3]] := by
  decide
theorem test_region_working : (after (.regionWorking 0x63FF (.write 0x11)) reset).map (·.mem) = some [(0x23FF, 0x11)] := by decide
theorem test_region_video2400 : outputs (.regionVideo2400 0x2400 .read) { reset with mem := [(0x2400, 7)] } =
    some [.memBytes [7]] := by decide
theorem test_region_video2800 : (after (.regionVideo2800 0x2800 (.write 1)) reset).map (·.mem) = some [(0x2800, 1)] := by decide
theorem test_region_video3000 : (after (.regionVideo3000 0xFFFF (.write 0x80)) reset).map (·.mem) = some [(0x3FFF, 0x80)] := by decide

/-! ### Display converter (V30, V32) -/

/-- The frame of the toy geometry with white pixels at the given indexes. -/
def whiteAt (qs : List Nat) : Frame :=
  (List.range 16).map fun q => if q ∈ qs then ⟨0xFF, 0xFF, 0xFF, 0xFF⟩ else ⟨0, 0, 0, 0xFF⟩

theorem test_convert_two_bits : outputs .convert { start with mem := [(0x2400, 0x01), (0x2401, 0x80)] } =
    some [.converted (whiteAt [14, 1])] := by decide
theorem test_convert_map :
    [0, 1, 7, 8, 255, 256, 264, 24707, 28672, 57088, 57343].map (destPixel Config.recommended) =
      [57120, 56896, 55552, 55328, 0, 57121, 55329, 27872, 57232, 57343, 223] := by decide

/-! ### Scheduler (V42 to V44, P6) -/

theorem test_iteration_mid_frame :
    (run [.schedIteration ⟨3, [], .output 2 1⟩, .schedIteration ⟨2, [], .output 4 0x81⟩, .schedIteration ⟨4, [], .input 3⟩] start).map
      (fun t => (t.emuClock, t.nextScreen, t.nextDisplay, t.trace)) =
      some (90, 160, 100, [.writeInput 0x02, .interrupt 1 90]) := by decide
theorem test_iteration_end_of_frame :
    (after (.schedIteration ⟨1, [.writeByte 0x2400 0x02], .output 3 0x02⟩)
        { start with emuClock := 90, nextScreen := 160 }).map (fun t => (t.nextScreen, t.nextDisplay, t.mirror, t.trace)) =
      some (160, 200, whiteAt [12],
        [.sound .shot, .interrupt 2 100, .published (whiteAt [12]), .redraw]) := by decide
theorem test_batch_too_long_steps :
    (after (.schedBatch [⟨20, [], .idle⟩, ⟨0, [], .idle⟩, ⟨0, [], .idle⟩]) { start with lock := .heldByReader }).map
      (fun t => (t.emuClock, t.batchStepsDone, t.batchNs, interruptVectors t.trace)) = some (200, 3, 200, [2, 2, 1]) := by decide
theorem test_step_from_reset_runs_the_word :
    (match step (reset.withFetchWord 16 0x104) with
      | .next t => some (t.srReg, t.requests)
      | _ => none) = some (0, []) := by decide

/-! ### Bridge (V50 to V52, P7) -/

theorem test_publish_and_read :
    (run [.publish (.given (whiteAt [0])) .whole, .readFrame .acquire, .publish (.given (whiteAt [1])) .whole,
      .readFrame .complete] start).map (fun t => (t.lock, t.trace)) =
      some (.free, [.published (whiteAt [0]), .publishSkipped, .frameRead (whiteAt [0])]) := by decide
theorem test_reader_waits_for_writer :
    (run [.publish .fresh .acquire, .readFrame .complete, .publish .fresh .finish, .readFrame .complete] start).map
      (fun t => (t.readerWaiting, t.trace)) = some (false, [.published (whiteAt []), .frameRead (whiteAt [])]) := by decide
/-- Rule R241: the frame read is what is presented, whatever is published between; and a read that holds the lock ends first. -/
theorem test_present :
    (run [.publish (.given (whiteAt [0])) .whole, .readFrame .complete, .publish (.given (whiteAt [1])) .whole,
      .readFrame .present, .readFrame .acquire, .readFrame .present] start).map (fun t => (t.lock, t.trace)) =
      some (.free, [.published (whiteAt [0]), .frameRead (whiteAt [0]), .published (whiteAt [1]), .presented (whiteAt [0]),
        .frameRead (whiteAt [1]), .presented (whiteAt [1])]) := by decide

/-- A toy state with requests queued. -/
def queue (rs : List Request) : State := { start with requests := rs }

/-- The state after `n` steps, if each leaves one. -/
def steps : Nat → State → Option State
  | 0, s => some s
  | n + 1, s =>
    match step s with
    | .next t => steps n t
    | _ => none

/-- Rules R14, R290: a write to Video asked for between the two parts of a publish is not in the frame published. -/
theorem test_write_waits_for_publish :
    (steps 3 (queue [⟨.op, [0x30, 0x00, 0x01]⟩, ⟨.op, [0x11, 0x00, 0x24, 0xFF]⟩])).map (fun t => (t.lock, t.mem, t.trace)) =
      some (.free, [(0x2400, 0xFF)], [.published (whiteAt [])]) := by decide
/-- Rules R215, R262, V52: without the audio backend a queued iteration never happens, and latch updates do. -/
theorem test_inert_system :
    (steps 2 { State.resetWith toy false with requests := [⟨.op, [0x21, 0x03, 0x00, 0x00]⟩, ⟨.op, [0x32, 0x01, 0x04]⟩] }).map
      (fun t => (t.emuClock, t.batchStepsDone, t.inLatch.p1, t.requests)) = some (0, 0, 0x18, []) := by decide
theorem test_latch_set :
    (run [.latchSet .p1 4, .latchSet .p1 7, .latchSet .sys 0] reset).map (·.inLatch) = some ⟨0x0E, 0x18, 0x00⟩ := by decide
theorem test_latch_clear :
    (run [.latchClear .p1 3, .latchClear .p1 4, .latchClear .sys 1] { reset with inLatch := ⟨0x1E, 0x18, 0⟩ }).map (·.inLatch) =
      some ⟨0x1E, 0x08, 0x00⟩ := by decide
theorem test_run_clear : (after .runClear reset).map (·.run) = some false := by decide

/-! ### Reset (V60) -/

theorem test_reset : (reset.srReg, reset.inLatch, reset.emuClock, reset.nextScreen, reset.nextDisplay, reset.lock, reset.run) =
    (0, ⟨0x0E, 0x08, 0x00⟩, 0, 8333333, 16666666, .free, true) := by decide
theorem test_power_on_without_image : fault (powerOn toy none true) = some (.loadFailure 0) := by decide

/-! ### Witnesses: the hypotheses of each obligation that has any, met together -/

theorem witness_RegisterHoldsLastTwoFedBytes :
    ∀ i ∈ [Instr.srFeed 1, .outShiftAmount 2, .outShiftData 3, .srSetAmount 4],
      (fedByte i).isSome = true ∨ (amountByte i).isSome = true := by decide

theorem witness_ShiftIdiomGivesSixteenBitShift : start.srReg.extractLsb' 8 8 = 0 := by decide

theorem witness_SameSoundByteTwiceEmitsNothing :
    (∃ t, exec (.outSoundBankA 0xFF) start = .next t) ∧ ∃ t, exec (.outSoundBankB 0xFF) start = .next t := ⟨⟨_, rfl⟩, ⟨_, rfl⟩⟩

theorem witness_SoundEventsAscendByBitPosition : start.cfg.SoundBitsOk := by decide

/-- A configured port above 255, and the two sides of the bound of R93's word. -/
theorem witness_EveryPortAndAddressDecodes :
    Config.recommended.PortsOk ∧ { toy with portInShift := 300 }.PortsOk ∧ (255 : Port) < 256 ∧ ¬ (256 : Port) < 256 := by decide

/-- The writable bounds of the recommended configuration, and addresses on the other side of them. -/
theorem witness_ByteWriteStoresInWritableRegions :
    reset.cfg.RegionsOk ∧ Memory.wf reset.mem ∧
      ([0x2000, 0x23FF, 0x2400, 0x3FFF, 0xE000, 0xFFFF] : List Addr).all (fun a => decide (isWritable reset.cfg (a.toNat % 0x4000))) ∧
      ([0x0000, 0x1FFF, 0x4000, 0xDFFF] : List Addr).all (fun a => decide (¬ isWritable reset.cfg (a.toNat % 0x4000))) ∧
      ¬ isWritable start.cfg (BitVec.toNat (0x2402 : Addr) % 0x4000) :=
  ⟨by decide, by decide, by decide, by decide, by decide⟩

theorem witness_WrittenByteReadsBackAtEveryMirror :
    reset.cfg.RegionsOk ∧ Memory.wf reset.mem ∧ isWritable reset.cfg (BitVec.toNat (0x7FFF : Addr) % 0x4000) := by decide

/-- The first and the last address of each pattern. -/
theorem witness_AddressPatternsAreTheRegions :
    [memRow 0x0000, memRow 0xDFFF] = [.program, .program] ∧ [memRow 0x2000, memRow 0xE3FF] = [.working, .working] ∧
    [memRow 0x2400, memRow 0xE7FF] = [.video2400, .video2400] ∧ [memRow 0x2800, memRow 0xEFFF] = [.video2800, .video2800] ∧
    [memRow 0x3000, memRow 0xFFFF] = [.video3000, .video3000] := by decide

/-- Ranges up to the last byte of each region, an empty one, and one byte in no region. -/
theorem witness_BulkReadReturnsRangeInOrder :
    reset.cfg.RegionsOk ∧ rangeDefined reset.cfg 0x1FFE 2 ∧ rangeDefined reset.cfg 0x23FE 2 ∧ rangeDefined reset.cfg 0x3FFE 2 ∧
    rangeDefined reset.cfg 0x3FFF 1 ∧ rangeDefined reset.cfg 0x3FFF 0 ∧ start.cfg.RegionsOk ∧ rangeDefined start.cfg 0x2402 1 :=
  ⟨by decide, by decide, by decide, by decide, by decide, by decide, by decide, by decide⟩

theorem witness_BulkWriteIsByteWritesInOrder :
    reset.cfg.RegionsOk ∧ rangeDefined reset.cfg 0x23FE [(1 : Byte), 2].length := by decide

theorem witness_BulkCrossingIsRefused :
    reset.cfg.RegionsOk ∧ ¬ rangeDefined reset.cfg 0x23FE 3 ∧ ¬ rangeDefined reset.cfg 0x3FFF 2 ∧
    ¬ rangeDefined reset.cfg 0x1FFF [(1 : Byte), 2].length := by decide

theorem witness_LoadFillsProgramAndClearsTheRest :
    let im : Image := ⟨0x2000, [(0, 0xC3), (0x1FFF, 0x76)]⟩
    reset.cfg.RegionsOk ∧ reset.programSealed = false ∧ im.WF ∧ im.length = reset.cfg.progSize := by decide

theorem witness_WrongImageLengthIsLoadFailure :
    (⟨0x1FFF, []⟩ : Image).length ≠ reset.cfg.progSize ∧ (⟨0x2001, []⟩ : Image).length ≠ reset.cfg.progSize ∧
    reset.programSealed = false := by decide

theorem witness_ProgramRegionNeverChanges :
    start.cfg.RegionsOk ∧ Memory.wf start.mem ∧ (∀ im, Instr.writeByte 0x1FFF 1 ≠ .loadProgram im) ∧
    (∃ t, exec (.writeByte 0x1FFF 1) start = .next t) ∧ 0x1FFF < start.cfg.progSize :=
  ⟨by decide, by decide, by simp, ⟨_, rfl⟩, by decide⟩

theorem witness_ReadsHaveNoSideEffect :
    (∃ t, exec (.readBytes 0x2400 2) start = .next t) ∧ (∃ t, exec .convert start = .next t) ∧
    ∃ t, exec (.inOther 9) start = .next t := ⟨⟨_, rfl⟩, ⟨_, rfl⟩, ⟨_, rfl⟩⟩

/-- The first and the last bit of the Video region. -/
theorem witness_ConvertPlacesEveryVideoBit :
    reset.cfg.GeometryOk ∧ (0 < reset.cfg.videoSize ∧ 0 < 8) ∧ 0x1BFF < reset.cfg.videoSize ∧ 7 < 8 := by decide

theorem witness_PixelMapIsABijection :
    toy.GeometryOk ∧ 0 < toy.fastLen * toy.slowLen ∧ 15 < toy.fastLen * toy.slowLen ∧ destPixel toy 15 = destPixel toy 15 ∧
    destPixel toy 9 ≠ sourcePixel toy 9 := by decide

theorem witness_WhitePixelsCountTheSetBits :
    start.cfg.GeometryOk ∧ start.cfg.pixelWhite ≠ start.cfg.pixelBlack ∧
    ∃ t fr, exec .convert start = .next t ∧ t.trace = start.trace ++ [.converted fr] := ⟨by decide, by decide, _, _, rfl, rfl⟩

theorem witness_ConvertDependsOnVideoOnly :
    let other : State := { start with srReg := 7, mem := [(0x2000, 1)], emuClock := 5 }
    start.cfg = other.cfg ∧ start.cfg.GeometryOk ∧ ∀ i, i < start.cfg.videoSize →
      start.mem.read (start.cfg.videoBase + i) = other.mem.read (other.cfg.videoBase + i) := by decide

theorem witness_IterationAdvancesTheClock :
    start.cfg.RegionsOk ∧ ∀ op ∈ [MemOp.readByte 0, .writeByte 0x2400 1, .readBytes 0x23FE 2, .writeBytes 0x2400 [1, 2]],
      opDefined start.cfg op :=
  ⟨by decide, by simp only [List.mem_cons, List.not_mem_nil, or_false, forall_eq_or_imp, forall_eq, opDefined]; decide⟩

/-- An iteration that stores to two Video bytes and to no other cell, and reads a port. -/
theorem witness_IterationFrame :
    Memory.wf start.mem ∧ (∃ t, exec (.schedIteration ⟨1, [.writeBytes 0x2400 [1, 2]], .input 3⟩) start = .next t) ∧
    (∀ op ∈ [MemOp.writeBytes 0x2400 [1, 2]], ¬ storesTo 0x2402 op) ∧
    ∀ b, IORequest.input 3 ≠ .output start.cfg.portOutShiftData b :=
  ⟨by decide, ⟨_, rfl⟩, by simp [storesTo], by simp⟩

/-- The end-of-frame mark reached exactly, with the lock free, held by the reader and held by the writer. -/
theorem witness_EndOfFrameEventInOrder :
    (∃ t, exec (.schedIteration ⟨10, [], .idle⟩) start = .next t) ∧
    (∃ t, exec (.schedIteration ⟨10, [], .idle⟩) { start with lock := .heldByReader } = .next t) ∧
    (∃ t, exec (.schedIteration ⟨10, [], .idle⟩) { start with lock := .heldByWriter (whiteAt [1]) } = .next t) ∧
    start.nextDisplay ≤ (start.emuClock + 10 * start.cfg.nsPerCycle) % 2 ^ start.cfg.clockBits :=
  ⟨⟨_, rfl⟩, ⟨_, rfl⟩, ⟨_, rfl⟩, by decide⟩

/-- The mid-frame mark reached exactly. -/
theorem witness_MidFrameEventRaisesItsInterrupt :
    (∃ t, exec (.schedIteration ⟨6, [], .idle⟩) start = .next t) ∧
    (start.emuClock + 6 * start.cfg.nsPerCycle) % 2 ^ start.cfg.clockBits < start.nextDisplay ∧
    start.nextScreen ≤ (start.emuClock + 6 * start.cfg.nsPerCycle) % 2 ^ start.cfg.clockBits := ⟨⟨_, rfl⟩, by decide, by decide⟩

/-- One cycle short of the mid-frame mark. -/
theorem witness_NoMarkReachedRaisesNothing :
    (∃ t, exec (.schedIteration ⟨5, [], .idle⟩) start = .next t) ∧
    (start.emuClock + 5 * start.cfg.nsPerCycle) % 2 ^ start.cfg.clockBits < start.nextDisplay ∧
    (start.emuClock + 5 * start.cfg.nsPerCycle) % 2 ^ start.cfg.clockBits < start.nextScreen := ⟨⟨_, rfl⟩, by decide, by decide⟩

/-- Both marks reached in one iteration (V43). -/
theorem witness_AtMostOneInterruptAnIteration :
    ∃ t, exec (.schedIteration ⟨20, [], .idle⟩) start = .next t ∧ start.nextDisplay ≤ t.emuClock ∧ start.nextScreen ≤ t.emuClock :=
  ⟨_, rfl, by decide, by decide⟩

theorem witness_BatchIsItsIterations :
    start.cfg.RegionsOk ∧ ∀ x ∈ [(⟨1, [.writeByte 0x2400 1], .idle⟩ : EngineAnswer), ⟨4, [], .input 3⟩],
      ∀ op ∈ x.memOps, opDefined start.cfg op :=
  ⟨by decide, by simp [opDefined]⟩

/-- The state of V42 after iteration 3: the step of iteration 4 reaches the end-of-frame mark exactly. -/
def beforeEnd : State := { start with emuClock := 90, nextScreen := 160 }

theorem witness_InPhaseIterationKeepsMarksAhead_end :
    let P := beforeEnd.cfg.framePeriodNs
    let O := beforeEnd.cfg.midOffsetNs
    let d := 1 * beforeEnd.cfg.nsPerCycle
    (0 < O ∧ O < P ∧ d ≤ O ∧ d ≤ P - O ∧ beforeEnd.emuClock + d + P < 2 ^ beforeEnd.cfg.clockBits) ∧
    (beforeEnd.emuClock < beforeEnd.nextDisplay ∧ beforeEnd.emuClock < beforeEnd.nextScreen) ∧
    beforeEnd.nextDisplay = (0 + 1) * P ∧ beforeEnd.nextScreen = (0 + 2) * P - O ∧ 0 * P ≤ beforeEnd.emuClock ∧
    (0 + 1) * P - O ≤ beforeEnd.emuClock ∧
    ∃ t, exec (.schedIteration ⟨1, [], .idle⟩) beforeEnd = .next t ∧ beforeEnd.nextDisplay ≤ t.emuClock :=
  ⟨by decide, by decide, by decide, by decide, by decide, by decide, _, rfl, by decide⟩

/-- The state of V42 after iteration 2: the step of iteration 3 reaches the mid-frame mark. -/
def beforeMid : State := { start with emuClock := 50 }

theorem witness_InPhaseIterationKeepsMarksAhead_mid :
    let P := beforeMid.cfg.framePeriodNs
    let O := beforeMid.cfg.midOffsetNs
    let d := 4 * beforeMid.cfg.nsPerCycle
    (0 < O ∧ O < P ∧ d ≤ O ∧ d ≤ P - O ∧ beforeMid.emuClock + d + P < 2 ^ beforeMid.cfg.clockBits) ∧
    (beforeMid.emuClock < beforeMid.nextDisplay ∧ beforeMid.emuClock < beforeMid.nextScreen) ∧
    beforeMid.nextDisplay = (0 + 1) * P ∧ beforeMid.nextScreen = (0 + 1) * P - O ∧ 0 * P ≤ beforeMid.emuClock ∧
    (beforeMid.nextScreen = (0 + 2) * P - O → (0 + 1) * P - O ≤ beforeMid.emuClock) ∧
    ∃ t, exec (.schedIteration ⟨4, [], .idle⟩) beforeMid = .next t ∧ beforeMid.nextScreen ≤ t.emuClock :=
  ⟨by decide, by decide, by decide, by decide, by decide, by decide, _, rfl, by decide⟩

/-- The first four iterations of V42: both events happen. -/
theorem witness_InterruptCadenceAlternates :
    let xs : List EngineAnswer := [⟨3, [], .idle⟩, ⟨2, [], .idle⟩, ⟨4, [], .idle⟩, ⟨1, [], .idle⟩]
    toy.Valid ∧ (∀ x ∈ xs, x.cycles * toy.nsPerCycle ≤ toy.midOffsetNs ∧ x.cycles * toy.nsPerCycle ≤ toy.framePeriodNs - toy.midOffsetNs) ∧
    totalNs toy xs + toy.framePeriodNs < 2 ^ toy.clockBits ∧
    ∃ t, runOps (xs.map .schedIteration) (State.resetWith toy true) = .next t := ⟨by decide, by decide, by decide, _, rfl⟩

theorem witness_IterationAdvancesTheClock_lock : ∀ g, start.lock ≠ .heldByWriter g := by simp [start, State.resetWith]

/-- A request that decodes to a well-formed batch of the toy configuration. -/
def batchRequest : Request := ⟨.op, 0x22 :: [0x01, 0x00, 0x00] ++ [0x01, 0x00, 0x00] ++ [0x01, 0x00, 0x00]⟩

/-- A thread at its outer loop with the flag clear and with it set, at a batch's end, and inside a batch; then with a request
queued: an open publish before a write, an open batch before a batch, a thread that has ended. -/
theorem witness_EmulationThreadReadsRunFlagAtBatchBoundary :
    (start.requests = [] ∧ start.batchStepsDone = 0 ∧ start.run = true) ∧
    (let s := { start with run := false, batchStepsDone := 3 }; s.requests = [] ∧ s.cfg.batchSteps ≤ s.batchStepsDone ∧ s.run = false) ∧
    (let s := { start with batchStepsDone := 2 }; s.requests = [] ∧ 0 < s.batchStepsDone ∧ s.batchStepsDone < s.cfg.batchSteps) ∧
    (∃ i, decode toy ⟨.op, [0x11, 0x00, 0x24, 0xFF]⟩ = .ok i ∧ i.wf toy = true ∧ agentOf i = .emulation ∧ isFinish i = false) ∧
    { start with lock := .heldByWriter (whiteAt [1]) }.lock = .heldByWriter (whiteAt [1]) ∧
    ∃ i, decode toy batchRequest = .ok i ∧ i.wf toy = true ∧ agentOf i = .emulation ∧ isBatch i = true :=
  ⟨by decide, by decide, by decide, ⟨_, rfl, by decide, rfl, rfl⟩, rfl, ⟨_, rfl, by decide, rfl, rfl⟩⟩

/-- The three values of the lock, and the waiting bit with the lock free. -/
theorem witness_PublishPartsMakeAPublish :
    start.lock = .free ∧ { start with lock := .heldByReader }.lock = .heldByReader ∧
    { start with lock := .heldByWriter (whiteAt [1]) }.lock = .heldByWriter (whiteAt [1]) ∧
    (∀ g, start.lock ≠ .heldByWriter g) ∧ ∀ g, { start with lock := .heldByReader }.lock ≠ .heldByWriter g :=
  ⟨rfl, rfl, rfl, by simp [start, State.resetWith], by simp⟩

/-- Requests of the presentation thread: a latch update and a read. -/
theorem witness_ReadFrameReturnsMirrorUnderLock :
    (∃ i, decode toy ⟨.op, [0x32, 0x01, 0x04]⟩ = .ok i ∧ i.wf toy = true ∧ agentOf i = .presentation ∧ isRead i = false) ∧
    (∃ i, decode toy ⟨.op, [0x31, 0x00]⟩ = .ok i ∧ i.wf toy = true ∧ agentOf i = .presentation ∧ isRead i = true) ∧
    (∃ i, decode toy ⟨.op, [0x31, 0x02]⟩ = .ok i ∧ i.wf toy = true ∧ agentOf i = .presentation ∧ isRead i = false) ∧
    (start.lock ≠ .heldByReader ∧ start.lastRead = none ∧ { start with lastRead := some (whiteAt [1]) }.lastRead = some (whiteAt [1])) ∧
    let s := { start with readerWaiting := true }; s.lock = .free ∧ s.readerWaiting = true :=
  ⟨⟨_, rfl, rfl, rfl, rfl⟩, ⟨_, rfl, rfl, rfl, rfl⟩, ⟨_, rfl, rfl, rfl, rfl⟩, by decide, rfl, rfl⟩

theorem witness_FramesReadAreWholePublishedFrames :
    ∃ t, runOps [.readFrame .complete, .publish (.given (whiteAt [0])) .whole, .readFrame .complete, .readFrame .present] start =
        .next t ∧
      t.trace = start.trace ++ ([.frameRead start.mirror, .published (whiteAt [0])] ++ [.frameRead (whiteAt [0])] ++
        [.presented (whiteAt [0])]) :=
  ⟨_, rfl, rfl⟩

/-- A reader that holds the lock over an end of frame (P7), and a state in which the lock is free throughout. -/
theorem witness_SkippedPublishLeavesEmulationUnaffected :
    let ops : List Instr := [.readFrame .acquire, .schedIteration ⟨1, [], .idle⟩, .readFrame .complete]
    (∀ i ∈ ops, isScheduler i = true ∨ ∃ part, i = .readFrame part) ∧
    equalButMirror beforeEnd { beforeEnd with mirror := whiteAt [5] } ∧ ∃ t, runOps ops beforeEnd = .next t :=
  ⟨by simp [isScheduler], rfl, _, rfl⟩

/-- An ended thread with the store closed, a latch update and an iteration queued. -/
theorem witness_ClearedRunFlagStaysClear :
    let s := { queue [⟨.op, [0x32, 0x01, 0x04]⟩, ⟨.op, [0x21, 0x03, 0x00, 0x00]⟩] with run := false, programSealed := true }
    (∃ t, step s = .next t) ∧ s.run = false ∧ s.batchStepsDone = 0 ∧ (∀ f, s.lock ≠ .heldByWriter f) ∧ s.programSealed = true :=
  ⟨⟨_, rfl⟩, rfl, rfl, by simp [queue, start, State.resetWith], rfl⟩

theorem witness_OnlyPresentationWritesLatchesAndRunFlag :
    (agentOf (.schedIteration ⟨1, [], .idle⟩) ≠ .presentation ∧ ∃ t, exec (.schedIteration ⟨1, [], .idle⟩) start = .next t) ∧
    agentOf (.loadProgram ⟨0x2000, []⟩) ≠ .presentation ∧ ∃ t, exec (.loadProgram ⟨0x2000, []⟩) start = .next t :=
  ⟨⟨by decide, _, rfl⟩, by decide, _, rfl⟩

theorem witness_PresentationTouchesOnlyTheBridge :
    agentOf (.latchSet .p1 4) = .presentation ∧ ∃ t, exec (.latchSet .p1 4) start = .next t := ⟨rfl, _, rfl⟩

theorem witness_OnlySchedulerWritesTheClock :
    isScheduler (.writeByte 0x2400 1) = false ∧ ∃ t, exec (.writeByte 0x2400 1) start = .next t := ⟨rfl, _, rfl⟩

theorem witness_ShiftAndSoundStateHaveOneWriterEach :
    isScheduler (.outWatchdog 1) = false ∧ fedByte (.outWatchdog 1) = none ∧ amountByte (.outWatchdog 1) = none ∧
    (∀ b, Instr.outWatchdog 1 ≠ .outSoundBankA b) ∧ (∀ b, Instr.outWatchdog 1 ≠ .outSoundBankB b) ∧
    ∃ t, exec (.outWatchdog 1) start = .next t := ⟨rfl, rfl, rfl, by simp, by simp, _, rfl⟩

theorem witness_ResetValues :
    Config.recommended.RegionsOk ∧ (⟨0x2000, [(0, 0xC3)]⟩ : Image).WF ∧ (⟨0x2000, [(0, 0xC3)]⟩ : Image).length = Config.recommended.progSize := by
  decide

theorem witness_InvariantHoldsAtReset : toy.Valid := by decide

/-- A state that no reset gives, with the invariant, and a step from it. -/
theorem witness_EveryStepKeepsTheInvariant :
    let s : State := { beforeEnd with
      mem := [(0, 0xC3), (0x2401, 1)], inLatch := ⟨0x1E, 0x18, 0x04⟩, mirror := whiteAt [3], lock := .heldByWriter (whiteAt [4])
      lastRead := some (whiteAt [2])
      readerWaiting := true, requests := [⟨.op, [0x32, 0x01, 0x04]⟩] }
    Inv s ∧ ∃ t, step s = .next t ∧ t.mirror = whiteAt [4] :=
  ⟨⟨by decide, by decide, by decide, fun l => by cases l <;> decide, by decide, by decide, by decide, by decide,
    fun f h => by cases h; rfl, fun f h => by cases h; rfl, by decide⟩, _, rfl, rfl⟩

theorem witness_StepsKeepConfigurationAndHistory : ∃ t, step (queue [⟨.io, [0x03, 0x01, 0x03]⟩]) = .next t := ⟨_, rfl⟩

/-- Well-formed requests of the three agents in a state that lets each run, the second part of a publish in one that it ends, a
frame of the wrong size, an id that is not listed. -/
theorem witness_StepRunsTheDecodedRequest :
    ((∃ i, decode toy ⟨.op, [0x14, 0x00, 0x00]⟩ = .ok i ∧ i.wf toy = true ∧ agentOf i = .startUp) ∧
      (∃ i, decode toy ⟨.op, [0x34]⟩ = .ok i ∧ i.wf toy = true ∧ agentOf i = .presentation ∧ isRead i = false) ∧
      (∃ i, decode toy batchRequest = .ok i ∧ i.wf toy = true ∧ agentOf i = .emulation ∧ isBatch i = true) ∧
      ∃ i, decode toy ⟨.op, [0x30, 0x00, 0x02]⟩ = .ok i ∧ i.wf toy = true ∧ isFinish i = true) ∧
    (start.lock ≠ .heldByReader ∧ start.readerWaiting = false ∧ start.run = true ∧ start.batchStepsDone = 0) ∧
    (∃ i, decode toy ⟨.op, [0x30, 0x01, 0x00, 0x00]⟩ = .ok i ∧ i.wf toy = false) ∧
    (∃ e, decode toy ⟨.op, [0x04]⟩ = .error e) ∧ (queue [⟨.op, [0x34]⟩]).requests = ⟨.op, [0x34]⟩ :: [] :=
  ⟨⟨⟨_, rfl, by decide, rfl⟩, ⟨_, rfl, rfl, rfl, rfl⟩, ⟨_, rfl, by decide, rfl, rfl⟩, ⟨_, rfl, rfl, rfl⟩⟩, by decide,
    ⟨_, rfl, by decide⟩, ⟨_, rfl⟩, rfl⟩

theorem witness_DecodeOfEncodeIsTheOperation :
    toy.PortsOk ∧ [Instr.outOther 1 2, .inOther 0xFF, .outOther 1000 2, .inOther 256, .regionWorking 0xE3FF (.write 1), .loadProgram ⟨0x2001, [(0x2000, 1)]⟩,
      .schedBatch [⟨1, [], .idle⟩, ⟨300, [.writeBytes 0x2400 [1, 2]], .output 3 4⟩, ⟨0, [.readBytes 1 2], .input 900⟩],
      .publish (.given (whiteAt [2])) .acquire, .publish .fresh .finish, .latchClear .p2 7].all (·.wf toy) = true := by decide

end Sys2Proof.Tests
end

section
/-! PROOFS. Two facts about every run of the machine (00_scope.md, sections 3 to 5): the reset state meets the invariant, and
no step changes the configuration or takes back an output. -/

namespace Sys2Proof.Machine

/-! ### The reset state -/

/-- A byte with no bit outside a mask is what the mask keeps of it. -/
theorem and_mask_of_and_not_mask {v m : Byte} (h : v &&& ~~~m = 0) : v &&& m = v := by
  calc v &&& m = (v &&& m) ||| (v &&& ~~~m) := by rw [h]; simp
    _ = v := by rw [← BitVec.and_or_distrib_left, BitVec.or_not_self, BitVec.and_allOnes]

/-- Rule R11(i): the fixed values are the fixed bits of themselves, latch by latch. -/
theorem fixedValue_fixed_bits {c : Config} (h : c.FixedOk) (l : Latch) :
    c.fixedValue.get l &&& c.fixedMask.get l = c.fixedValue.get l := by
  obtain ⟨hsys, hp1, hp2⟩ := h
  cases l with
  | sys => exact and_mask_of_and_not_mask hsys
  | p1 => exact and_mask_of_and_not_mask hp1
  | p2 => exact and_mask_of_and_not_mask hp2

/-- The recommended parameters meet the constraints of rule R11. -/
theorem recommended_valid : Config.recommended.Valid := by decide

/-- The reset state of a valid configuration meets the invariant, with and without the audio backend. -/
theorem resetWith_inv {c : Config} (hc : c.Valid) (audio : Bool) : Inv (State.resetWith c audio) := by
  obtain ⟨-, -, -, -, ⟨-, -, -, hperiod⟩, hfixed⟩ := id hc
  exact {
    cfg_valid := hc
    mem_wf := Memory.wf_nil
    mem_in_regions := by simp [State.resetWith]
    fixed_bits := fixedValue_fixed_bits hfixed
    clock_fits := Nat.two_pow_pos _
    screen_fits := Nat.lt_of_le_of_lt (Nat.sub_le _ _) hperiod
    display_fits := hperiod
    mirror_size := by simp [State.resetWith]
    last_read_size := by simp [State.resetWith]
    publishing_size := by simp [State.resetWith]
    waiting_not_holding := by simp [State.resetWith] }

/-- Settles O55: both starts are reset states of a valid configuration, field by field of the invariant. -/
theorem invariantHoldsAtReset : Obligations.InvariantHoldsAtReset :=
  ⟨resetWith_inv recommended_valid true, fun _ audio hc => resetWith_inv hc audio⟩

/-! ### The configuration and the outputs made -/

/-- `t` comes after `s`: the same configuration (rule R17), and the outputs of `s` with perhaps more behind them (rule R13). -/
structure Extends (s t : State) : Prop where
  cfg_eq : t.cfg = s.cfg
  trace_eq : ∃ os, t.trace = s.trace ++ os

namespace Extends

theorem refl (s : State) : Extends s s := ⟨rfl, [], by simp⟩

theorem trans {s t u : State} (h₁ : Extends s t) (h₂ : Extends t u) : Extends s u := by
  obtain ⟨hc₁, os₁, ht₁⟩ := h₁
  obtain ⟨hc₂, os₂, ht₂⟩ := h₂
  exact ⟨hc₂.trans hc₁, os₁ ++ os₂, by rw [ht₂, ht₁, List.append_assoc]⟩

/-- A change of other fields only. -/
theorem of_eq {s t : State} (hc : t.cfg = s.cfg) (ht : t.trace = s.trace) : Extends s t := ⟨hc, [], by simp [ht]⟩

/-- New outputs after a change of other fields. -/
theorem emit {s t : State} (h : Extends s t) (os : List Output) : Extends s (t.emit os) :=
  h.trans ⟨rfl, os, rfl⟩

end Extends

theorem access_extends (s : State) (addr : Addr) (x : Access) : Extends s (s.access addr x) := by
  cases x with
  | read => exact (Extends.refl s).emit _
  | write v => exact .of_eq rfl rfl

theorem memOp_extends {s t : State} {op : MemOp} (h : s.memOp op = some t) : Extends s t := by
  obtain ⟨os, ht, -⟩ := memOp_frame h
  exact ⟨by rw [ht], os, by rw [ht]⟩

theorem writerFinish_extends (s : State) : Extends s s.writerFinish := by
  cases hl : s.lock with
  | free => rw [writerFinish_free hl]; exact .refl s
  | heldByReader => rw [writerFinish_reader hl]; exact .refl s
  | heldByWriter g => rw [writerFinish_writer hl]; exact ⟨rfl, _, rfl⟩

theorem writerAcquire_extends (s : State) (f : Frame) : Extends s (s.writerAcquire f) := by
  unfold State.writerAcquire
  split
  · exact .of_eq rfl rfl
  · exact (Extends.refl s).emit _
  · exact (writerFinish_extends s).trans (.of_eq rfl rfl)

theorem publishFrame_extends (s : State) (f : Frame) : Extends s (s.publishFrame f) :=
  (writerAcquire_extends s f).trans (writerFinish_extends _)

theorem readerAcquire_extends (s : State) : Extends s s.readerAcquire := by
  unfold State.readerAcquire
  split
  · exact .of_eq rfl rfl
  · exact .refl s
  · exact .of_eq rfl rfl

theorem readerFinish_extends (s : State) : Extends s s.readerFinish := by
  by_cases hl : s.lock = .heldByReader
  · rw [readerFinish_reader hl]; exact ⟨rfl, _, rfl⟩
  · rw [readerFinish_other hl]; exact .refl s

theorem present_extends (s : State) : Extends s s.present := by
  cases hf : s.lastRead with
  | none => rw [present_none hf]; exact .refl s
  | some f => rw [present_some hf]; exact (Extends.refl s).emit _

theorem endOfFrame_extends (s : State) : Extends s s.endOfFrame :=
  have mark : Extends s (s.setDisplayMark (clockAdd s.cfg s.nextDisplay s.cfg.framePeriodNs)) := .of_eq rfl rfl
  ((mark.emit _).trans (publishFrame_extends _ _)).emit _

theorem frameEvent_extends (s : State) : Extends s s.frameEvent := by
  obtain ⟨-, h⟩ | ⟨-, -, h⟩ | ⟨-, -, h⟩ := frameEvent_cases s <;> rw [h]
  · exact endOfFrame_extends s
  · exact ⟨rfl, _, rfl⟩
  · exact .refl s

theorem iteration_extends {s t : State} {x : EngineAnswer} (h : s.iteration x = some t) : Extends s t := by
  obtain ⟨u, os, rfl, hu, -⟩ := iteration_cases h
  have before : Extends s u := ⟨by rw [hu], os, by rw [hu]⟩
  exact before.trans (frameEvent_extends u)

theorem iterations_extends {xs : List EngineAnswer} {s t : State} (h : s.iterations xs = some t) : Extends s t := by
  induction xs generalizing s with
  | nil => cases h; exact .refl _
  | cons x xs ih =>
    simp only [State.iterations] at h
    split at h
    · exact (iteration_extends ‹_›).trans (ih h)
    · cases h

/-- An operation that may be refused for its range leaves a state exactly where it is defined. -/
theorem orCrossing_eq_next {o : Option State} {t : State} : orCrossing o = .next t ↔ o = some t := by
  cases o <;> simp [orCrossing]

theorem execPublish_extends {source : FrameSource} {part : PublishPart} {s t : State}
    (h : execPublish source part s = .next t) : Extends s t := by
  cases part with
  | whole => cases h; exact publishFrame_extends s _
  | acquire => cases h; exact writerAcquire_extends s _
  | finish => cases h; exact writerFinish_extends s

theorem execReadFrame_extends {part : ReadPart} {s t : State} (h : execReadFrame part s = .next t) : Extends s t := by
  cases part with
  | complete => cases h; exact (readerAcquire_extends s).trans (readerFinish_extends _)
  | acquire => cases h; exact readerAcquire_extends s
  | present => cases h; exact (readerFinish_extends s).trans (present_extends _)

theorem execLoadProgram_extends {image : Image} {s t : State} (h : execLoadProgram image s = .next t) : Extends s t := by
  unfold execLoadProgram at h
  split_ifs at h
  cases h
  exact .of_eq rfl rfl

/-- No operation changes the configuration or takes back an output. -/
theorem exec_extends {i : Instr} {s t : State} (h : exec i s = .next t) : Extends s t := by
  cases i with
  | outWatchdog _ | outOther _ _ => cases h; exact .refl s
  | outShiftAmount _ | outShiftData _ | srFeed _ | srSetAmount _ | writeByte _ _ | latchSet _ _ | latchClear _ _
  | runClear => cases h; exact .of_eq rfl rfl
  | outSoundBankA _ | outSoundBankB _ | inSystem | inPlayer1 | inPlayer2 | inShiftResult | inOther _ | srRead | readByte _
  | convert => cases h; exact ⟨rfl, _, rfl⟩
  | regionProgram addr x | regionWorking addr x | regionVideo2400 addr x | regionVideo2800 addr x
  | regionVideo3000 addr x => cases h; exact access_extends s addr x
  | readBytes addr n => exact memOp_extends (op := .readBytes addr n) (orCrossing_eq_next.1 h)
  | writeBytes addr vs => exact memOp_extends (op := .writeBytes addr vs) (orCrossing_eq_next.1 h)
  | loadProgram image => exact execLoadProgram_extends h
  | schedIteration x => exact iteration_extends (orCrossing_eq_next.1 h)
  | schedBatch xs =>
    have cleared : Extends s (s.setBatch 0 0) := .of_eq rfl rfl
    exact cleared.trans (iterations_extends (orCrossing_eq_next.1 h))
  | publish source part => exact execPublish_extends h
  | readFrame part => exact execReadFrame_extends h

theorem completes_extends {s t : State} (h : Completes s t) : Extends s t := by
  cases h with
  | publish _ => exact writerFinish_extends s
  | readAcquire _ => exact readerAcquire_extends s
  | read _ => exact readerFinish_extends s
  | publishForReader _ =>
    have waiting : Extends s (s.setWaiting true) := .of_eq rfl rfl
    exact waiting.trans (writerFinish_extends _)

theorem ready_extends (i : Instr) (s : State) : Extends s (s.ready i) := by
  rw [ready_frame]; exact .of_eq rfl rfl

theorem ownIteration_extends {s t : State} (h : s.ownIteration = .next t) : Extends s t := by
  have begun : Extends s s.draw.beginBatch := by rw [beginBatch_frame]; exact .of_eq rfl rfl
  exact begun.trans (iteration_extends (orCrossing_eq_next.1 h))

/-- No step changes the configuration or takes back an output. -/
theorem step_extends {s t : State} (h : step s = .next t) : Extends s t := by
  obtain ⟨i, rest, -, h⟩ | ⟨rest, -, -, rfl⟩ | h | ⟨-, -, h⟩ | ⟨-, -, rfl⟩ := step_cases h
  · have dequeued : Extends s (s.setRequests rest) := .of_eq rfl rfl
    exact (dequeued.trans (ready_extends i _)).trans (exec_extends h)
  · exact .of_eq rfl rfl
  · exact completes_extends h
  · exact ownIteration_extends h
  · exact .refl _

/-- Settles O57: each way a step can go keeps the configuration and extends the trace. -/
theorem stepsKeepConfigurationAndHistory : Obligations.StepsKeepConfigurationAndHistory := fun _ _ h =>
  have e := step_extends h
  ⟨e.cfg_eq, e.trace_eq⟩

end Sys2Proof.Machine
end

section
/-! PROOFS. Every step keeps the invariant (10_state.md, sections 4 to 8; 45_frame_bridge.md, sections 1 and 2): each shared
operation keeps it, so each operation does, so each way a step can go does. -/

namespace Sys2Proof.Machine

/-! ### Memory stays inside the regions -/

/-- Every listed cell lies in a region (rule R32). -/
def Memory.InRegions (m : Memory) (c : Config) : Prop := ∀ x ∈ m, regionOf c x.1 ≠ none

theorem writeByteAt_inRegions {c : Config} {m : Memory} (h : m.InRegions c) (addr : Addr) (v : Byte) :
    (writeByteAt c m addr v).InRegions c := by
  obtain ⟨hw, hr⟩ | ⟨hw, -⟩ := writeByteAt_cases c m addr v <;> rw [hw]
  · intro x hx
    rcases Memory.mem_write hx with rfl | hx
    · rcases hr with hr | hr <;> simp [hr]
    · exact h x hx
  · exact h

/-- A bulk write that is defined stores its bytes inside one region, or nothing (rule R67). -/
theorem memWrite_cases {c : Config} {m m' : Memory} {addr : Addr} {vs : List Byte} (h : memWrite c m addr vs = some m') :
    m' = m ∨ (∃ r, 0 < vs.length ∧ spanRegion c (window addr) vs.length = some r ∧ m' = m.writeList (window addr) vs) := by
  unfold memWrite at h
  split at h
  · cases h; exact .inl rfl
  · rename_i hlen
    split at h
    · cases h; exact .inl rfl
    · cases h; exact .inr ⟨_, by omega, ‹_›, rfl⟩
    · cases h; exact .inr ⟨_, by omega, ‹_›, rfl⟩
    · split_ifs at h; cases h; exact .inl rfl

theorem memWrite_inRegions {c : Config} (hc : c.RegionsOk) {m m' : Memory} (h : m.InRegions c) {addr : Addr}
    {vs : List Byte} (hw : memWrite c m addr vs = some m') : m'.InRegions c := by
  obtain rfl | ⟨r, hlen, hspan, rfl⟩ := memWrite_cases hw
  · exact h
  · intro x hx
    obtain ⟨hlo, hhi⟩ := (spanRegion_eq_some hc hlen).1 hspan
    rcases Memory.mem_writeList hx with hx | hx
    · simp [regionOf_eq_some hc (a := x.1) (r := r) (by omega)]
    · exact h x hx

/-- What a load does with one listed byte of an image (rule R136). -/
def loadCell (c : Config) (m : Memory) (x : Nat × Byte) : Memory :=
  if x.1 < c.progSize then m.write (c.progBase + x.1) x.2 else m

theorem loadedMemory_eq (c : Config) (im : Image) : loadedMemory c im = im.cells.foldl (loadCell c) [] := rfl

theorem loadCell_inRegions {c : Config} (hc : c.RegionsOk) {m : Memory} (h : m.InRegions c) (x : Nat × Byte) :
    (loadCell c m x).InRegions c := by
  unfold loadCell
  split_ifs with hx
  · intro y hy
    rcases Memory.mem_write hy with rfl | hy
    · simp [regionOf_eq_some hc (r := .program) (a := c.progBase + x.1) (by simpa [Config.base, Config.size] using hx)]
    · exact h y hy
  · exact h

theorem loadedMemory_inRegions {c : Config} (hc : c.RegionsOk) (im : Image) : (loadedMemory c im).InRegions c := by
  rw [loadedMemory_eq]
  exact List.foldlRecOn (motive := fun m => Memory.InRegions m c) im.cells (loadCell c) (by simp [Memory.InRegions])
    fun m hm x _ => loadCell_inRegions hc hm x

/-! ### Latch updates keep the fixed bits -/

theorem LatchBytes.get_set (bs : LatchBytes) (l l' : Latch) (b : Byte) :
    (bs.set l b).get l' = if l' = l then b else bs.get l' := by
  cases l <;> cases l' <;> rfl

theorem bitByte_eq_twoPow : ∀ k : Fin 8, bitByte k = BitVec.twoPow 8 k.val := by decide

/-- A free bit is outside the mask. -/
theorem and_bitByte {mask : Byte} {k : Fin 8} (hfree : mask.getLsbD k.val = false) : mask &&& bitByte k = 0#8 := by
  rw [bitByte_eq_twoPow, BitVec.and_twoPow, hfree]; rfl

/-- Rule R237: setting a bit leaves the fixed bits alone. -/
theorem latchWithSet_and_mask (mask b : Byte) (k : Fin 8) : latchWithSet mask b k &&& mask = b &&& mask := by
  unfold latchWithSet
  split_ifs with hfixed
  · rfl
  · have hbit := and_bitByte (Bool.eq_false_iff.2 hfixed)
    rw [BitVec.and_comm, BitVec.and_or_distrib_left, hbit, BitVec.or_zero, BitVec.and_comm]

/-- Rule R238: clearing a bit leaves the fixed bits alone. -/
theorem latchWithClear_and_mask (mask b : Byte) (k : Fin 8) : latchWithClear mask b k &&& mask = b &&& mask := by
  unfold latchWithClear
  split_ifs with hfixed
  · rfl
  · have hbit : mask &&& ~~~(~~~bitByte k) = 0#8 := by
      rw [BitVec.not_not, and_bitByte (Bool.eq_false_iff.2 hfixed)]
    rw [BitVec.and_assoc, BitVec.and_comm _ mask, and_mask_of_and_not_mask hbit]
/-! ### One rule for each kind of change -/

/-- The fields that no clause of the invariant reads may change freely. -/
theorem Inv.of_frame {s t : State} (h : Inv s)
    (ht : t = { s with
      srReg := t.srReg, srAmount := t.srAmount, prevA := t.prevA, prevB := t.prevB, batchStepsDone := t.batchStepsDone
      batchNs := t.batchNs, run := t.run, programSealed := t.programSealed, trace := t.trace, requests := t.requests
      freeCount := t.freeCount }) : Inv t := by
  rw [ht]; exact { h with }

section
variable {s t : State} (h : Inv s)
include h

theorem Inv.regionsOk : s.cfg.RegionsOk := h.cfg_valid.1

theorem Inv.emit (os : List Output) : Inv (s.emit os) := h.of_frame rfl

theorem Inv.setMem {m : Memory} (hwf : m.wf) (hin : m.InRegions s.cfg) : Inv (s.setMem m) :=
  { h with mem_wf := hwf, mem_in_regions := hin }

theorem Inv.setLatches {ls : LatchBytes} (hfixed : ∀ l, ls.get l &&& s.cfg.fixedMask.get l = s.cfg.fixedValue.get l) :
    Inv (s.setLatches ls) :=
  { h with fixed_bits := hfixed }

theorem Inv.setLatch {l : Latch} {b : Byte} (hb : b &&& s.cfg.fixedMask.get l = s.inLatch.get l &&& s.cfg.fixedMask.get l) :
    Inv (s.setLatches (s.inLatch.set l b)) :=
  h.setLatches fun l' => by
    rw [LatchBytes.get_set]
    split_ifs with hl
    · rw [hl, hb]; exact h.fixed_bits l
    · exact h.fixed_bits l'

theorem latchSet_inv (l : Latch) (k : Fin 8) : Inv (s.latchSet l k) := h.setLatch (latchWithSet_and_mask _ _ k)

theorem latchClear_inv (l : Latch) (k : Fin 8) : Inv (s.latchClear l k) := h.setLatch (latchWithClear_and_mask _ _ k)

/-! ### Memory operations and the dispatcher -/

theorem storeByte_inv (addr : Addr) (v : Byte) : Inv (s.storeByte addr v) :=
  h.setMem (writeByteAt_wf h.mem_wf _ _ _) (writeByteAt_inRegions h.mem_in_regions _ _)

theorem access_inv (addr : Addr) (x : Access) : Inv (s.access addr x) := by
  cases x with
  | read => exact h.emit _
  | write v => exact storeByte_inv h addr v

theorem loadBytes_inv {addr : Addr} {n : Nat} (ht : s.loadBytes addr n = some t) : Inv t := by
  unfold State.loadBytes at ht
  split at ht <;> cases ht
  exact h.emit _

theorem storeBytes_inv {addr : Addr} {vs : List Byte} (ht : s.storeBytes addr vs = some t) : Inv t := by
  unfold State.storeBytes at ht
  split at ht <;> cases ht
  exact h.setMem (memWrite_wf h.mem_wf ‹_›) (memWrite_inRegions h.regionsOk h.mem_in_regions ‹_›)

theorem memOp_inv {op : MemOp} (ht : s.memOp op = some t) : Inv t := by
  cases op with
  | readByte a => cases ht; exact h.emit _
  | writeByte a v => cases ht; exact storeByte_inv h a v
  | readBytes a n => exact loadBytes_inv h ht
  | writeBytes a vs => exact storeBytes_inv h ht

theorem memOps_inv {ops : List MemOp} (ht : s.memOps ops = some t) : Inv t := by
  induction ops generalizing s with
  | nil => cases ht; exact h
  | cons op ops ih =>
    unfold State.memOps at ht
    split at ht
    · exact ih (memOp_inv h ‹_›) ht
    · cases ht

theorem dispatch_inv (q : IORequest) : Inv (s.dispatch q) := by
  obtain ⟨os, hframe, -⟩ := dispatch_frame s q
  rw [hframe]; exact h.of_frame rfl

theorem loadProgram_inv {image : Image} (ht : execLoadProgram image s = .next t) : Inv t := by
  unfold execLoadProgram at ht
  split_ifs at ht
  cases ht
  have hmem := h.setMem (loadedMemory_wf s.cfg image) (loadedMemory_inRegions h.regionsOk image)
  exact hmem.of_frame rfl

/-! ### The frame mirror -/

theorem writerFinish_inv : Inv s.writerFinish := by
  cases hl : s.lock with
  | free => rw [writerFinish_free hl]; exact h
  | heldByReader => rw [writerFinish_reader hl]; exact h
  | heldByWriter g =>
    rw [writerFinish_writer hl]
    exact { h with
      mirror_size := h.publishing_size g hl
      publishing_size := by simp
      waiting_not_holding := by simp }

theorem Inv.holdForWriter {f : Frame} (hf : f.length = s.cfg.pixels) : Inv (s.setLock (.heldByWriter f)) :=
  { h with
    publishing_size := fun g hg => by cases hg; exact hf
    waiting_not_holding := by simp }

theorem writerAcquire_inv {f : Frame} (hf : f.length = s.cfg.pixels) : Inv (s.writerAcquire f) := by
  unfold State.writerAcquire
  split
  · exact h.holdForWriter hf
  · exact h.emit _
  · refine (writerFinish_inv h).holdForWriter ?_
    rw [(writerFinish_extends s).cfg_eq, hf]

theorem publishFrame_inv {f : Frame} (hf : f.length = s.cfg.pixels) : Inv (s.publishFrame f) :=
  writerFinish_inv (writerAcquire_inv h hf)

theorem readerAcquire_inv : Inv s.readerAcquire := by
  unfold State.readerAcquire
  split
  · exact { h with publishing_size := by simp, waiting_not_holding := by simp }
  · exact h
  · exact { h with waiting_not_holding := by simp [*] }

theorem readerFinish_inv : Inv s.readerFinish := by
  by_cases hl : s.lock = .heldByReader
  · rw [readerFinish_reader hl]
    exact { h with
      last_read_size := fun f hf => by cases hf; exact h.mirror_size
      publishing_size := by simp
      waiting_not_holding := by simp }
  · rw [readerFinish_other hl]; exact h

theorem present_inv : Inv s.present := by
  cases hf : s.lastRead with
  | none => rw [present_none hf]; exact h
  | some f => rw [present_some hf]; exact h.emit _

end

/-- Addition on clock values stays on them (rule R211). -/
theorem clockAdd_lt (c : Config) (n d : Nat) : clockAdd c n d < 2 ^ c.clockBits := Nat.mod_lt _ (Nat.two_pow_pos _)

/-- Rule R182: a converted frame has one pixel for each video bit. -/
theorem convertFrame_length (s : State) : s.convertFrame.length = s.cfg.pixels := by
  simp [State.convertFrame, convertVideo]

/-- A well-formed publish that takes a frame takes one of the frame's size (rule R231). -/
theorem sourceFrame_length {s : State} {source : FrameSource} {part : PublishPart} (hw : source.wf s.cfg part = true)
    (hpart : part ≠ .finish) : (s.sourceFrame source).length = s.cfg.pixels := by
  cases source with
  | fresh => exact convertFrame_length s
  | given f =>
    cases part with
    | whole | acquire => exact of_decide_eq_true hw
    | finish => exact absurd rfl hpart

section
variable {s t : State} (h : Inv s)
include h

theorem execPublish_inv {source : FrameSource} {part : PublishPart} (hw : source.wf s.cfg part = true)
    (ht : execPublish source part s = .next t) : Inv t := by
  cases part with
  | whole => cases ht; exact publishFrame_inv h (sourceFrame_length hw (by simp))
  | acquire => cases ht; exact writerAcquire_inv h (sourceFrame_length hw (by simp))
  | finish => cases ht; exact writerFinish_inv h

theorem execReadFrame_inv {part : ReadPart} (ht : execReadFrame part s = .next t) : Inv t := by
  cases part with
  | complete => cases ht; exact readerFinish_inv (readerAcquire_inv h)
  | acquire => cases ht; exact readerAcquire_inv h
  | present => cases ht; exact present_inv (readerFinish_inv h)

/-! ### The scheduler -/

theorem advanceClock_inv (cycles : Nat) : Inv (s.advanceClock cycles) :=
  have hclock : Inv (s.setClock (clockAdd s.cfg s.emuClock (stepNs s.cfg cycles))) :=
    { h with clock_fits := clockAdd_lt _ _ _ }
  hclock.of_frame rfl

theorem endOfFrame_inv : Inv s.endOfFrame :=
  have hmark : Inv (s.setDisplayMark (clockAdd s.cfg s.nextDisplay s.cfg.framePeriodNs)) :=
    { h with display_fits := clockAdd_lt _ _ _ }
  (publishFrame_inv (hmark.emit _) (convertFrame_length _)).emit _

theorem midFrame_inv : Inv s.midFrame :=
  have hmark : Inv (s.setScreenMark (clockAdd s.cfg s.nextScreen s.cfg.framePeriodNs)) :=
    { h with screen_fits := clockAdd_lt _ _ _ }
  hmark.emit _

theorem frameEvent_inv : Inv s.frameEvent := by
  obtain ⟨-, he⟩ | ⟨-, -, he⟩ | ⟨-, -, he⟩ := frameEvent_cases s <;> rw [he]
  · exact endOfFrame_inv h
  · exact midFrame_inv h
  · exact h

theorem iteration_inv {x : EngineAnswer} (ht : s.iteration x = some t) : Inv t := by
  unfold State.iteration at ht
  split at ht <;> cases ht
  have hsealed : Inv s.seal := h.of_frame rfl
  exact frameEvent_inv (dispatch_inv (advanceClock_inv (memOps_inv hsealed ‹_›) _) _)

theorem iterations_inv {xs : List EngineAnswer} (ht : s.iterations xs = some t) : Inv t := by
  induction xs generalizing s with
  | nil => cases ht; exact h
  | cons x xs ih =>
    unfold State.iterations at ht
    split at ht
    · exact ih (iteration_inv h ‹_›) ht
    · cases ht

theorem ownIteration_inv (ht : s.ownIteration = .next t) : Inv t := by
  have hbegun : Inv s.draw.beginBatch := h.of_frame (by rw [beginBatch_frame]; rfl)
  exact iteration_inv hbegun (orCrossing_eq_next.1 ht)

/-! ### Operations and steps -/

/-- Every well-formed operation keeps the invariant. -/
theorem exec_inv {i : Instr} (hw : i.wf s.cfg = true) (ht : exec i s = .next t) : Inv t := by
  cases i with
  | outWatchdog _ | outOther _ _ => cases ht; exact h
  | outShiftAmount _ | outShiftData _ | outSoundBankA _ | outSoundBankB _ | inSystem | inPlayer1 | inPlayer2
  | inShiftResult | inOther _ | srFeed _ | srSetAmount _ | srRead | readByte _ | convert | runClear =>
    cases ht; exact h.of_frame rfl
  | regionProgram addr x | regionWorking addr x | regionVideo2400 addr x | regionVideo2800 addr x
  | regionVideo3000 addr x => cases ht; exact access_inv h addr x
  | writeByte addr v => cases ht; exact storeByte_inv h addr v
  | readBytes addr n => exact loadBytes_inv h (orCrossing_eq_next.1 ht)
  | writeBytes addr vs => exact storeBytes_inv h (orCrossing_eq_next.1 ht)
  | loadProgram image => exact loadProgram_inv h ht
  | schedIteration x => exact iteration_inv h (orCrossing_eq_next.1 ht)
  | schedBatch xs =>
    have hcleared : Inv (s.setBatch 0 0) := h.of_frame rfl
    exact iterations_inv hcleared (orCrossing_eq_next.1 ht)
  | publish source part => exact execPublish_inv h hw ht
  | readFrame part => exact execReadFrame_inv h ht
  | latchSet l k => cases ht; exact latchSet_inv h l k
  | latchClear l k => cases ht; exact latchClear_inv h l k

theorem ready_inv (i : Instr) : Inv (s.ready i) := h.of_frame (by rw [ready_frame])

theorem completes_inv (ht : Completes s t) : Inv t := by
  cases ht with
  | publish _ => exact writerFinish_inv h
  | readAcquire _ => exact readerAcquire_inv h
  | read _ => exact readerFinish_inv h
  | publishForReader hp =>
    obtain ⟨g, hl⟩ := (publishing_iff s).1 hp
    have hwaiting : Inv (s.setWaiting true) := { h with waiting_not_holding := by simp [hl] }
    exact writerFinish_inv hwaiting

end

/-- Settles O56: each way a step can go keeps the invariant. -/
theorem everyStepKeepsTheInvariant : Obligations.EveryStepKeepsTheInvariant := by
  intro s t h ht
  obtain ⟨i, rest, hw, ht⟩ | ⟨rest, -, -, rfl⟩ | ht | ⟨-, -, ht⟩ | ⟨-, -, rfl⟩ := step_cases ht
  · have hdequeued : Inv (s.setRequests rest) := h.of_frame rfl
    exact exec_inv (ready_inv hdequeued i) (by rwa [(ready_extends i _).cfg_eq]) ht
  · exact h.of_frame rfl
  · exact completes_inv h ht
  · exact ownIteration_inv h ht
  · exact h

end Sys2Proof.Machine
end

section
/-! PROOFS. The two sound banks (42_io_port_dispatcher.md, section 2): the events of one write, collected position by position,
are the events of the edges, each once. -/

namespace Sys2Proof.Machine

/-! ### Edges -/

/-- A bit rose where this write sets it and the previous one left it clear (rule R154). -/
@[simp] theorem getElem_rise (prev byte : Byte) (k : Nat) (hk : k < 8) : (rise prev byte)[k] = (byte[k] && !prev[k]) := by
  simp [rise]

/-- A bit fell where this write clears it and the previous one set it (rule R154). -/
@[simp] theorem getElem_fall (prev byte : Byte) (k : Nat) (hk : k < 8) : (fall prev byte)[k] = (!byte[k] && prev[k]) := by
  simp [fall, Bool.and_comm]

/-! ### Events collected by position -/

theorem soundBit_lt (c : Config) (e : Sound) : soundBit c e < 8 := by
  cases e <;> exact Fin.isLt _

section
variable {c : Config} {eventsAt : Nat → List Sound} (hbit : ∀ k, ∀ e ∈ eventsAt k, k = soundBit c e)
include hbit

/-- An event is collected at its own flag's position or nowhere. -/
theorem mem_byPosition (e : Sound) : e ∈ (List.range 8).flatMap eventsAt ↔ e ∈ eventsAt (soundBit c e) := by
  rw [List.mem_flatMap]
  constructor
  · rintro ⟨k, -, he⟩
    rwa [← hbit k e he]
  · exact fun he => ⟨_, List.mem_range.2 (soundBit_lt c e), he⟩

/-- Events that are distinct at each position are distinct together, for no event has two positions. -/
theorem nodup_byPosition (hnodup : ∀ k, (eventsAt k).Nodup) : ((List.range 8).flatMap eventsAt).Nodup := by
  refine List.nodup_flatMap.2 ⟨fun k _ => hnodup k, List.nodup_range.imp ?_⟩
  intro j k hjk e hj hk
  exact hjk ((hbit j e hj).trans (hbit k e hk).symm)

end

/-- An event listed under a condition is at most that event. -/
theorem optional_sublist (p : Prop) [Decidable p] (e : Sound) : List.Sublist (if p then [e] else []) [e] := by
  split <;> simp

/-! ### Bank A -/

/-- Rule R154's lines: an event is listed at its own flag's position only. -/
theorem soundAEventsAt_bit (c : Config) (prev byte : Byte) (k : Nat) (e : Sound) (he : e ∈ soundAEventsAt c prev byte k) :
    k = soundBit c e := by
  cases e <;> simp_all [soundAEventsAt, soundBit]

theorem soundAEventsAt_nodup (c : Config) (prev byte : Byte) (k : Nat) : (soundAEventsAt c prev byte k).Nodup :=
  have hall : [Sound.ufoLoopStart, .ufoLoopStop, .shot, .flash, .invaderDie, .extendedPlay].Nodup := by decide
  hall.sublist <| (((((optional_sublist _ _).append (optional_sublist _ _)).append (optional_sublist _ _)).append
    (optional_sublist _ _)).append (optional_sublist _ _)).append (optional_sublist _ _)

/-- Rule R154: the events of one write to bank A. -/
theorem mem_soundAEvents (c : Config) (prev byte : Byte) (e : Sound) :
    e ∈ soundAEvents c prev byte ↔ e ∈ soundAEventsAt c prev byte (soundBit c e) :=
  mem_byPosition (soundAEventsAt_bit c prev byte) e

/-- Settles O7: an event is collected where its own flag stands, and there exactly if it has its edge. -/
theorem soundBankAEmitsEdgesAndReplacesLatch : Obligations.SoundBankAEmitsEdgesAndReplacesLatch := by
  intro s b
  refine ⟨soundAEvents s.cfg s.prevA b, rfl,
    nodup_byPosition (soundAEventsAt_bit s.cfg s.prevA b) (soundAEventsAt_nodup s.cfg s.prevA b), fun e => ?_⟩
  rw [mem_soundAEvents]
  cases e <;> simp [soundAEventsAt, soundBit, and_assoc]

/-! ### Bank B -/

/-- Rule R155's lines: an event is listed at its own flag's position only. -/
theorem soundBEventsAt_bit (c : Config) (prev byte : Byte) (k : Nat) (e : Sound) (he : e ∈ soundBEventsAt c prev byte k) :
    k = soundBit c e := by
  cases e <;> simp_all [soundBEventsAt, soundBit]

theorem soundBEventsAt_nodup (c : Config) (prev byte : Byte) (k : Nat) : (soundBEventsAt c prev byte k).Nodup :=
  have hall : [Sound.fleetStep1, .fleetStep2, .fleetStep3, .fleetStep4, .ufoHit].Nodup := by decide
  hall.sublist <| ((((optional_sublist _ _).append (optional_sublist _ _)).append (optional_sublist _ _)).append
    (optional_sublist _ _)).append (optional_sublist _ _)

/-- Rule R155: the events of one write to bank B. -/
theorem mem_soundBEvents (c : Config) (prev byte : Byte) (e : Sound) :
    e ∈ soundBEvents c prev byte ↔ e ∈ soundBEventsAt c prev byte (soundBit c e) :=
  mem_byPosition (soundBEventsAt_bit c prev byte) e

/-- Settles O8: an event is collected where its own flag stands, and there exactly if that flag rose. -/
theorem soundBankBEmitsRisesAndReplacesLatch : Obligations.SoundBankBEmitsRisesAndReplacesLatch := by
  intro s b
  refine ⟨soundBEvents s.cfg s.prevB b, rfl,
    nodup_byPosition (soundBEventsAt_bit s.cfg s.prevB b) (soundBEventsAt_nodup s.cfg s.prevB b), fun e => ?_⟩
  rw [mem_soundBEvents]
  cases e <;> simp [soundBEventsAt, soundBit]

end Sys2Proof.Machine
end

section
/-! PROOFS. Emulator start (10_state.md, section 10; 41_memory_image.md, rule R136): what a load leaves in memory, and the reset
values. -/

namespace Sys2Proof.Machine

/-! ### The memory after a load -/

theorem loadCell_wf {m : Memory} (h : m.wf) (c : Config) (x : Nat × Byte) : (loadCell c m x).wf := by
  unfold loadCell
  split_ifs
  · exact Memory.wf_write h _ _
  · exact h

/-- A listed byte goes to its offset in the Program region; the region's other bytes read as before. -/
theorem read_loadCell {c : Config} {m : Memory} (h : m.wf) (x : Nat × Byte) {k : Nat} (hk : k < c.progSize) :
    (loadCell c m x).read (c.progBase + k) = if k = x.1 then x.2 else m.read (c.progBase + k) := by
  unfold loadCell
  split_ifs with hx he he
  · rw [he]; exact Memory.read_write_same h _ _
  · exact Memory.read_write_other h (by omega) _
  · omega
  · rfl

/-- A listed byte goes nowhere outside the Program region. -/
theorem read_loadCell_outside {c : Config} {m : Memory} (h : m.wf) (x : Nat × Byte) {a : Nat}
    (ha : a < c.progBase ∨ c.progBase + c.progSize ≤ a) : (loadCell c m x).read a = m.read a := by
  unfold loadCell
  split_ifs
  · exact Memory.read_write_other h (by omega) _
  · rfl

/-- Listed bytes at rising offsets: each Program byte is the one listed for its offset, and reads as before where none is. -/
theorem read_loadCells {c : Config} (cells : List (Nat × Byte)) (hrise : cells.Pairwise fun x y => x.1 < y.1) {m : Memory}
    (h : m.wf) {k : Nat} (hk : k < c.progSize) :
    (cells.foldl (loadCell c) m).read (c.progBase + k) = (cells.lookup k).getD (m.read (c.progBase + k)) := by
  induction cells generalizing m with
  | nil => rfl
  | cons x xs ih =>
    obtain ⟨hx, hxs⟩ := List.pairwise_cons.1 hrise
    rw [List.foldl_cons, ih hxs (loadCell_wf h c x), read_loadCell h x hk]
    by_cases he : k = x.1
    · have hnone : xs.lookup k = none := List.lookup_eq_none_iff.2 fun y hy => by have := hx y hy; simp; omega
      simp [List.lookup, he ▸ hnone, he]
    · rw [if_neg he, List.lookup, beq_false_of_ne he]

theorem read_loadCells_outside {c : Config} (cells : List (Nat × Byte)) {m : Memory} (h : m.wf) {a : Nat}
    (ha : a < c.progBase ∨ c.progBase + c.progSize ≤ a) : (cells.foldl (loadCell c) m).read a = m.read a := by
  induction cells generalizing m with
  | nil => rfl
  | cons x xs ih => rw [List.foldl_cons, ih (loadCell_wf h c x), read_loadCell_outside h x ha]

/-- Rule R136: the Program region holds the image. -/
theorem read_loadedMemory {c : Config} {im : Image} (him : im.WF) {k : Nat} (hk : k < c.progSize) :
    (loadedMemory c im).read (c.progBase + k) = im.byteAt k := by
  rw [loadedMemory_eq, read_loadCells im.cells him.1 Memory.wf_nil hk]; rfl

/-- Rule R136: everything else is zero. -/
theorem read_loadedMemory_outside {c : Config} (im : Image) {a : Nat}
    (ha : a < c.progBase ∨ c.progBase + c.progSize ≤ a) : (loadedMemory c im).read a = 0 := by
  rw [loadedMemory_eq, read_loadCells_outside im.cells Memory.wf_nil ha]; rfl

/-! ### The reset values -/

/-- A load of PROG_SIZE bytes while the store is open completes (rule R136). -/
theorem execLoadProgram_open {s : State} {im : Image} (hopen : s.programSealed = false) (hlen : im.length = s.cfg.progSize) :
    execLoadProgram im s = .next (s.setMem (loadedMemory s.cfg im)).seal := by
  simp [execLoadProgram, hopen, hlen]

/-- Settles O54: the start is a load on the reset state, whose other fields stand as they are. -/
theorem resetValues : Obligations.ResetValues := by
  intro c audio im hc him hlen
  obtain ⟨-, -, hwork, hvideo, -⟩ := hc
  have hmirror : ((List.range c.pixels).map Config.freeMirrorPixel).length = c.pixels := by simp
  exact ⟨_, execLoadProgram_open rfl hlen, rfl, rfl, rfl, rfl, rfl, rfl, hmirror,
    (Nat.zero_add _).symm, (Nat.zero_add _).symm, rfl, rfl, rfl, rfl, fun k hk => read_loadedMemory him hk, fun k hk => read_loadedMemory_outside (c := c) im (by omega),
    fun k hk => read_loadedMemory_outside (c := c) im (by omega)⟩

end Sys2Proof.Machine
end

section
/-! PROOFS. Who writes what (10_state.md, rules R26, R37; 60_exceptions.md, rule R266): the emulation thread and start-up leave
the presentation thread's own fields alone, and where the emulation thread has ended a step only reads frames and updates
latches. -/

namespace Sys2Proof.Machine

/-! ### Fields that only the presentation thread writes -/

/-- The fields that only the presentation thread writes are the same (rules R26, R37, R266). -/
structure KeepsPresentation (s t : State) : Prop where
  inLatch_eq : t.inLatch = s.inLatch
  run_eq : t.run = s.run
  readerWaiting_eq : t.readerWaiting = s.readerWaiting
  lastRead_eq : t.lastRead = s.lastRead

namespace KeepsPresentation

theorem refl (s : State) : KeepsPresentation s s := ⟨rfl, rfl, rfl, rfl⟩

theorem trans {s t u : State} (h₁ : KeepsPresentation s t) (h₂ : KeepsPresentation t u) : KeepsPresentation s u :=
  ⟨h₂.inLatch_eq.trans h₁.inLatch_eq, h₂.run_eq.trans h₁.run_eq, h₂.readerWaiting_eq.trans h₁.readerWaiting_eq,
    h₂.lastRead_eq.trans h₁.lastRead_eq⟩

end KeepsPresentation

theorem access_keepsPresentation (s : State) (addr : Addr) (x : Access) : KeepsPresentation s (s.access addr x) := by
  cases x <;> exact ⟨rfl, rfl, rfl, rfl⟩

theorem memOp_keepsPresentation {s t : State} {op : MemOp} (h : s.memOp op = some t) : KeepsPresentation s t := by
  obtain ⟨os, ht, -⟩ := memOp_frame h
  rw [ht]; exact ⟨rfl, rfl, rfl, rfl⟩

theorem writerFinish_keepsPresentation (s : State) : KeepsPresentation s s.writerFinish := by
  unfold State.writerFinish
  split <;> exact ⟨rfl, rfl, rfl, rfl⟩

theorem writerAcquire_keepsPresentation (s : State) (f : Frame) : KeepsPresentation s (s.writerAcquire f) := by
  unfold State.writerAcquire
  split
  · exact ⟨rfl, rfl, rfl, rfl⟩
  · exact ⟨rfl, rfl, rfl, rfl⟩
  · exact (writerFinish_keepsPresentation s).trans ⟨rfl, rfl, rfl, rfl⟩

theorem publishFrame_keepsPresentation (s : State) (f : Frame) : KeepsPresentation s (s.publishFrame f) :=
  (writerAcquire_keepsPresentation s f).trans (writerFinish_keepsPresentation _)

theorem endOfFrame_keepsPresentation (s : State) : KeepsPresentation s s.endOfFrame :=
  have mark : KeepsPresentation s ((s.setDisplayMark (clockAdd s.cfg s.nextDisplay s.cfg.framePeriodNs)).raiseInterrupt
    s.cfg.vecEof) := ⟨rfl, rfl, rfl, rfl⟩
  (mark.trans (publishFrame_keepsPresentation _ _)).trans ⟨rfl, rfl, rfl, rfl⟩

theorem frameEvent_keepsPresentation (s : State) : KeepsPresentation s s.frameEvent := by
  obtain ⟨-, h⟩ | ⟨-, -, h⟩ | ⟨-, -, h⟩ := frameEvent_cases s <;> rw [h]
  · exact endOfFrame_keepsPresentation s
  · exact ⟨rfl, rfl, rfl, rfl⟩
  · exact .refl s

theorem iteration_keepsPresentation {s t : State} {x : EngineAnswer} (h : s.iteration x = some t) :
    KeepsPresentation s t := by
  obtain ⟨u, os, rfl, hu, -⟩ := iteration_cases h
  have before : KeepsPresentation s u := by rw [hu]; exact ⟨rfl, rfl, rfl, rfl⟩
  exact before.trans (frameEvent_keepsPresentation u)

theorem iterations_keepsPresentation {xs : List EngineAnswer} {s t : State} (h : s.iterations xs = some t) :
    KeepsPresentation s t := by
  induction xs generalizing s with
  | nil => cases h; exact .refl _
  | cons x xs ih =>
    unfold State.iterations at h
    split at h
    · exact (iteration_keepsPresentation ‹_›).trans (ih h)
    · cases h

theorem ownIteration_keepsPresentation {s t : State} (h : s.ownIteration = .next t) : KeepsPresentation s t := by
  have begun : KeepsPresentation s s.draw.beginBatch := by rw [beginBatch_frame]; exact ⟨rfl, rfl, rfl, rfl⟩
  exact begun.trans (iteration_keepsPresentation (orCrossing_eq_next.1 h))

theorem execPublish_keepsPresentation {source : FrameSource} {part : PublishPart} {s t : State}
    (h : execPublish source part s = .next t) : KeepsPresentation s t := by
  cases part with
  | whole => cases h; exact publishFrame_keepsPresentation s _
  | acquire => cases h; exact writerAcquire_keepsPresentation s _
  | finish => cases h; exact writerFinish_keepsPresentation s

theorem execLoadProgram_keepsPresentation {image : Image} {s t : State} (h : execLoadProgram image s = .next t) :
    KeepsPresentation s t := by
  unfold execLoadProgram at h
  split_ifs at h
  cases h
  exact ⟨rfl, rfl, rfl, rfl⟩

/-- No operation of the emulation thread or of start-up writes a field of the presentation thread. -/
theorem exec_keepsPresentation {i : Instr} (hi : agentOf i ≠ .presentation) {s t : State} (h : exec i s = .next t) :
    KeepsPresentation s t := by
  cases i with
  | outWatchdog _ | outOther _ _ | outShiftAmount _ | outShiftData _ | outSoundBankA _ | outSoundBankB _ | inSystem
  | inPlayer1 | inPlayer2 | inShiftResult | inOther _ | srFeed _ | srSetAmount _ | srRead | readByte _ | writeByte _ _
  | convert => cases h; exact ⟨rfl, rfl, rfl, rfl⟩
  | regionProgram addr x | regionWorking addr x | regionVideo2400 addr x | regionVideo2800 addr x
  | regionVideo3000 addr x => cases h; exact access_keepsPresentation s addr x
  | readBytes addr n => exact memOp_keepsPresentation (op := .readBytes addr n) (orCrossing_eq_next.1 h)
  | writeBytes addr vs => exact memOp_keepsPresentation (op := .writeBytes addr vs) (orCrossing_eq_next.1 h)
  | loadProgram image => exact execLoadProgram_keepsPresentation h
  | schedIteration x => exact iteration_keepsPresentation (orCrossing_eq_next.1 h)
  | schedBatch xs =>
    have cleared : KeepsPresentation s (s.setBatch 0 0) := ⟨rfl, rfl, rfl, rfl⟩
    exact cleared.trans (iterations_keepsPresentation (orCrossing_eq_next.1 h))
  | publish source part => exact execPublish_keepsPresentation h
  | readFrame _ | latchSet _ _ | latchClear _ _ | runClear => exact absurd rfl hi

/-- Settles O50: an operation of another agent keeps the presentation thread's four fields. -/
theorem onlyPresentationWritesLatchesAndRunFlag : Obligations.OnlyPresentationWritesLatchesAndRunFlag := by
  intro i s t hi h
  obtain ⟨hlatch, hrun, hwaiting, hread⟩ := exec_keepsPresentation hi h
  exact ⟨hlatch, hrun, hwaiting, hread⟩

/-! ### What happens without the emulation thread -/

/-- All that a step may do where the emulation thread has ended: read and present frames, update latches, take from the queue and,
while the store is open, load (rules R215, R262, R271). -/
structure OnlyReads (s t : State) : Prop where
  no_writer : (∀ f, s.lock ≠ .heldByWriter f) → ∀ f, t.lock ≠ .heldByWriter f
  store : s.programSealed = true → t.mem = s.mem ∧ t.programSealed = true
  frame : ∃ os, (∀ o ∈ os, ∃ f, o = .frameRead f ∨ o = .presented f) ∧
    t = { s with
      mem := t.mem, programSealed := t.programSealed, inLatch := t.inLatch, lock := t.lock
      readerWaiting := t.readerWaiting, lastRead := t.lastRead, requests := t.requests, trace := s.trace ++ os }

namespace OnlyReads

theorem trans {s t u : State} (h₁ : OnlyReads s t) (h₂ : OnlyReads t u) : OnlyReads s u where
  no_writer hl := h₂.no_writer (h₁.no_writer hl)
  store hs := by
    obtain ⟨hm₁, hs₁⟩ := h₁.store hs
    obtain ⟨hm₂, hs₂⟩ := h₂.store hs₁
    exact ⟨hm₂.trans hm₁, hs₂⟩
  frame := by
    obtain ⟨os₁, hos₁, ht⟩ := h₁.frame
    obtain ⟨os₂, hos₂, hu⟩ := h₂.frame
    refine ⟨os₁ ++ os₂, fun o ho => (List.mem_append.1 ho).elim (hos₁ o) (hos₂ o), ?_⟩
    rw [hu, ht, List.append_assoc]

theorem run_eq {s t : State} (h : OnlyReads s t) : t.run = s.run := by
  obtain ⟨os, -, ht⟩ := h.frame
  rw [ht]

/-- A change of latches, the reader's fields and the queue, without output and without the writer. -/
theorem silent {s t : State} (hl : (∀ f, s.lock ≠ .heldByWriter f) → ∀ f, t.lock ≠ .heldByWriter f)
    (ht : t = { s with
      inLatch := t.inLatch, lock := t.lock, readerWaiting := t.readerWaiting, lastRead := t.lastRead
      requests := t.requests }) : OnlyReads s t where
  no_writer := hl
  store hs := by rw [ht]; exact ⟨rfl, hs⟩
  frame := ⟨[], by simp, by rw [ht]; simp⟩

theorem refl (s : State) : OnlyReads s s := silent id rfl

end OnlyReads

theorem readerAcquire_onlyReads (s : State) : OnlyReads s s.readerAcquire := by
  unfold State.readerAcquire
  split
  · exact .silent (fun _ _ => by simp) rfl
  · exact .refl s
  · exact .silent id rfl

theorem readerFinish_onlyReads (s : State) : OnlyReads s s.readerFinish := by
  by_cases hl : s.lock = .heldByReader
  · rw [readerFinish_reader hl]
    exact ⟨by simp, fun hs => ⟨rfl, hs⟩, [.frameRead s.mirror], by simp, rfl⟩
  · rw [readerFinish_other hl]; exact .refl s

theorem present_onlyReads (s : State) : OnlyReads s s.present := by
  cases hf : s.lastRead with
  | none => rw [present_none hf]; exact .refl s
  | some f =>
    rw [present_some hf]
    exact ⟨id, fun hs => ⟨rfl, hs⟩, [.presented f], by simp, rfl⟩

theorem execReadFrame_onlyReads {part : ReadPart} {s t : State} (h : execReadFrame part s = .next t) : OnlyReads s t := by
  cases part with
  | complete => cases h; exact (readerAcquire_onlyReads s).trans (readerFinish_onlyReads _)
  | acquire => cases h; exact readerAcquire_onlyReads s
  | present => cases h; exact (readerFinish_onlyReads s).trans (present_onlyReads _)

/-- A load happens only while the store is open (rule R136). -/
theorem execLoadProgram_onlyReads {image : Image} {s t : State} (h : execLoadProgram image s = .next t) :
    OnlyReads s t := by
  unfold execLoadProgram at h
  split_ifs at h with hs
  cases h
  exact ⟨id, fun hs' => absurd hs' hs, [], by simp, by simp [State.seal, State.setMem]⟩

/-- Without the emulation thread only the other operations remain, and clearing a clear flag changes nothing (rule R240). -/
theorem exec_onlyReads {i : Instr} (hi : agentOf i ≠ .emulation) {s t : State} (hrun : s.run = false)
    (h : exec i s = .next t) : OnlyReads s t := by
  cases i with
  | loadProgram image => exact execLoadProgram_onlyReads h
  | readFrame part => exact execReadFrame_onlyReads h
  | latchSet l k | latchClear l k => cases h; exact .silent id rfl
  | runClear => cases h; exact .silent id (by rw [State.setRun, ← hrun])
  | _ => exact absurd rfl hi

/-- The turn of a request where the emulation thread has ended in no publish: another thread's operation is performed, or that
thread first goes on with its read, or the request is dropped. -/
theorem turn_ended {s : State} (hend : s.emulationEnded = true) (hidle : s.publishing = false) (i : Instr) (u : State) :
    (agentOf i ≠ .emulation ∧ turn i s u = .ok u) ∨ turn i s u = .error (.next u) ∨
    turn i s u = .error (.next s.readerAcquire) ∨ turn i s u = .error (.next s.readerFinish) := by
  have hboundary : s.atBatchBoundary = true := (Bool.and_eq_true_iff.1 hend).2
  unfold turn
  rcases unfinished_cases i s with e | ⟨-, -, hp, -⟩ | ⟨-, hb, -⟩ | ⟨-, -, -, -, e⟩ | ⟨-, -, -, e⟩ | ⟨-, hp, -⟩
  · rw [e]
    cases hi : agentOf i with
    | emulation => exact .inr (.inl (by simp [State.inert, hi, hend, hidle]))
    | presentation | startUp => exact .inl ⟨by simp, by simp [State.inert, State.ready, hi]⟩
  · simp [hp] at hidle
  · simp [hb] at hboundary
  · exact .inr (.inr (.inl (by rw [e])))
  · exact .inr (.inr (.inr (by rw [e])))
  · simp [hp] at hidle

/-- A fetched request leaves the queue and nothing else. -/
theorem fetch_some {s u : State} {i : Instr} (h : fetch s = .ok (some (i, u))) : ∃ rest, u = s.setRequests rest := by
  unfold fetch at h
  split at h
  · cases h
  · split at h
    · cases h
    · split_ifs at h; cases h; exact ⟨_, rfl⟩

/-- Where the emulation thread has ended in no publish, every step only reads. -/
theorem step_onlyReads {s t : State} (h : step s = .next t) (hend : s.emulationEnded = true)
    (hidle : s.publishing = false) : OnlyReads s t := by
  have hrun : s.run = false := by simpa using (Bool.and_eq_true_iff.1 hend).1
  unfold step at h
  split at h
  · cases h
  · rw [emulationMove, hidle, hend] at h; cases h; exact .refl s
  · rename_i i u hf
    obtain ⟨rest, rfl⟩ := fetch_some hf
    have dequeued : OnlyReads s (s.setRequests rest) := .silent id rfl
    obtain ⟨hi, e⟩ | e | e | e := turn_ended hend hidle i (s.setRequests rest) <;> rw [e] at h
    · exact dequeued.trans (exec_onlyReads hi hrun h)
    · cases h; exact dequeued
    · cases h; exact readerAcquire_onlyReads s
    · cases h; exact readerFinish_onlyReads s

/-! ### The run flag -/

theorem exec_run_clear {i : Instr} {s t : State} (hrun : s.run = false) (h : exec i s = .next t) : t.run = false := by
  by_cases hi : agentOf i = .presentation
  · rw [(exec_onlyReads (by simp [hi]) hrun h).run_eq, hrun]
  · rw [(exec_keepsPresentation hi h).run_eq, hrun]

theorem completes_run {s t : State} (h : Completes s t) : t.run = s.run := by
  cases h with
  | publish _ => exact (writerFinish_keepsPresentation s).run_eq
  | readAcquire _ => exact (readerAcquire_onlyReads s).run_eq
  | read _ => exact (readerFinish_onlyReads s).run_eq
  | publishForReader _ => exact (writerFinish_keepsPresentation (s.setWaiting true)).run_eq

/-- Rule R37: no step sets the run flag again. -/
theorem step_run_clear {s t : State} (h : step s = .next t) (hrun : s.run = false) : t.run = false := by
  obtain ⟨i, rest, -, h⟩ | ⟨rest, -, -, rfl⟩ | h | ⟨-, -, h⟩ | ⟨-, -, rfl⟩ := step_cases h
  · exact exec_run_clear (by rw [ready_frame]; exact hrun) h
  · exact hrun
  · rw [completes_run h, hrun]
  · rw [(ownIteration_keepsPresentation h).run_eq, hrun]
  · exact hrun

/-- Settles O49: no step sets the flag, and a step without the emulation thread only reads. -/
theorem clearedRunFlagStaysClear : Obligations.ClearedRunFlagStaysClear := by
  intro s t h hrun
  refine ⟨step_run_clear h hrun, fun hboundary hl => ?_⟩
  have hend : s.emulationEnded = true := by simpa [State.emulationEnded, State.atBatchBoundary, hrun] using hboundary
  have hidle : s.publishing = false := by
    rw [Bool.eq_false_iff, Ne, publishing_iff]
    exact fun ⟨g, hg⟩ => hl g hg
  obtain ⟨hlock, hstore, hframe⟩ := step_onlyReads h hend hidle
  exact ⟨hlock hl, hstore, hframe⟩

end Sys2Proof.Machine
end

section
/-! PROOFS. Every port number and every address decodes (20_memory.md, section 1; 30_encoding.md, sections 2, 3 and 6): what the
request of a port or of an address decodes to is well-formed, and distinct port numbers select distinct operations. -/

namespace Sys2Proof

/-! ### Output ports -/

/-- Rule R94 read backwards: under distinct port numbers each output operation has exactly its own port. -/
theorem selectOut_eq_iff {c : Config} (hc : c.PortsOk) (p : Port) :
    (selectOut c p = .shiftAmount ↔ p = c.portOutShiftAmount) ∧ (selectOut c p = .soundA ↔ p = c.portOutSoundA) ∧
    (selectOut c p = .shiftData ↔ p = c.portOutShiftData) ∧ (selectOut c p = .soundB ↔ p = c.portOutSoundB) ∧
    (selectOut c p = .watchdog ↔ p = c.portOutWatchdog) ∧
    (selectOut c p = .other ↔
      p ∉ [c.portOutShiftAmount, c.portOutSoundA, c.portOutShiftData, c.portOutSoundB, c.portOutWatchdog]) := by
  obtain ⟨hdistinct, -⟩ := hc
  unfold selectOut
  -- `p` is the first port it equals, or none; that port differs from the earlier and, by `hdistinct`, from the later ones
  split_ifs <;> simp_all

/-- The operation of an output request names the operation selected, and `OUT other` its own port. -/
theorem outInstr_eq_iff (c : Config) (p : Port) (b : Byte) :
    (outInstr c p b = .outShiftAmount b ↔ selectOut c p = .shiftAmount) ∧
    (outInstr c p b = .outSoundBankA b ↔ selectOut c p = .soundA) ∧
    (outInstr c p b = .outShiftData b ↔ selectOut c p = .shiftData) ∧
    (outInstr c p b = .outSoundBankB b ↔ selectOut c p = .soundB) ∧
    (outInstr c p b = .outWatchdog b ↔ selectOut c p = .watchdog) ∧
    (outInstr c p b = .outOther p b ↔ selectOut c p = .other) := by
  unfold outInstr
  cases selectOut c p <;> simp

theorem outInstr_wf (c : Config) (p : Port) (b : Byte) : (outInstr c p b).wf c = true := by
  cases h : selectOut c p <;> simp [outInstr, Instr.wf, h]

/-! ### Input ports -/

/-- Rule R95 read backwards: under distinct port numbers each input operation has exactly its own port. -/
theorem selectIn_eq_iff {c : Config} (hc : c.PortsOk) (p : Port) :
    (selectIn c p = .sys ↔ p = c.portInSys) ∧ (selectIn c p = .p1 ↔ p = c.portInP1) ∧
    (selectIn c p = .p2 ↔ p = c.portInP2) ∧ (selectIn c p = .shift ↔ p = c.portInShift) ∧
    (selectIn c p = .other ↔ p ∉ [c.portInSys, c.portInP1, c.portInP2, c.portInShift]) := by
  obtain ⟨-, hdistinct⟩ := hc
  unfold selectIn
  -- `p` is the first port it equals, or none; that port differs from the earlier and, by `hdistinct`, from the later ones
  split_ifs <;> simp_all

/-- The operation of an input request names the operation selected, and `IN other` its own port. -/
theorem inInstr_eq_iff (c : Config) (p : Port) :
    (inInstr c p = .inSystem ↔ selectIn c p = .sys) ∧ (inInstr c p = .inPlayer1 ↔ selectIn c p = .p1) ∧
    (inInstr c p = .inPlayer2 ↔ selectIn c p = .p2) ∧ (inInstr c p = .inShiftResult ↔ selectIn c p = .shift) ∧
    (inInstr c p = .inOther p ↔ selectIn c p = .other) := by
  unfold inInstr
  cases selectIn c p <;> simp

theorem inInstr_wf (c : Config) (p : Port) : (inInstr c p).wf c = true := by
  cases h : selectIn c p <;> simp [inInstr, Instr.wf, h]

/-! ### Addresses -/

theorem parseAccess_encode (x : Access) (bs : List Byte) : parseAccess (encodeAccess x ++ bs) = .ok (x, bs) := by
  cases x <;> rfl

/-- An access decodes to the row that its address matches. -/
theorem decode_memRequest (c : Config) (a : Addr) (x : Access) : decode c (memRequest a x) = .ok (memInstr a x) := by
  have haccess := parseAccess_encode x []
  rw [List.append_nil] at haccess
  simp [decode, memRequest, parseMem, parseAddr_encode, haccess, finishParse]

theorem memInstr_wf (c : Config) (a : Addr) (x : Access) : (memInstr a x).wf c = true := by
  cases h : memRow a <;> simp [memInstr, Instr.wf, h]

/-! ### Every request -/

/-- Rule R93: the word of a port `0..255` is its number and the direction. -/
theorem encodeSelector_narrow (d : Direction) {p : Port} (hp : p < 256) :
    encodeSelector d p = [BitVec.ofNat 8 p, BitVec.ofNat 8 d.bit] := if_pos hp

/-- Settles O13: each request decodes to what its port or its address selects, which is well-formed. -/
theorem everyPortAndAddressDecodes : Obligations.EveryPortAndAddressDecodes := by
  intro c p b a x hc
  refine ⟨fun hp => ?_, ⟨_, decode_outRequest c p b, outInstr_wf c p b, ?_⟩, ⟨_, decode_inRequest c p, inInstr_wf c p, ?_⟩,
    ⟨_, decode_memRequest c a x, memInstr_wf c a x⟩⟩
  · simp [outRequest, inRequest, encodeSelector_narrow _ hp, Direction.bit]
  · simpa only [outInstr_eq_iff] using selectOut_eq_iff hc p
  · simpa only [inInstr_eq_iff] using selectIn_eq_iff hc p

end Sys2Proof
end

section
/-! PROOFS. The memory operations from outside (20_memory.md, sections 2, 6 and 8; 41_memory_image.md, section 3): an address
counts by its window address alone, a read only adds its result, and the engine's operations come one at a time. -/

namespace Sys2Proof.Machine

/-! ### Mirrored addresses -/

section
variable {a b : Addr} (h : window a = window b)
include h

theorem readByte_of_window_eq (s : State) : exec (.readByte a) s = exec (.readByte b) s := by
  simp only [exec, execReadByte, State.loadByte, readByteAt, h]

theorem writeByte_of_window_eq (v : Byte) (s : State) : exec (.writeByte a v) s = exec (.writeByte b v) s := by
  simp only [exec, execWriteByte, State.storeByte, writeByteAt, h]

theorem readBytes_of_window_eq (n : Nat) (s : State) : exec (.readBytes a n) s = exec (.readBytes b n) s := by
  simp only [exec, execReadBytes, State.loadBytes, memRead, h]

theorem writeBytes_of_window_eq (vs : List Byte) (s : State) : exec (.writeBytes a vs) s = exec (.writeBytes b vs) s := by
  simp only [exec, execWriteBytes, State.storeBytes, memWrite, h]

end

/-- Settles O17: a mirror has the same window address, and an operation reads nothing else of its address. -/
theorem mirroredAddressesAreTheSameCell : Obligations.MirroredAddressesAreTheSameCell := fun s addr k v n vs =>
  have h := window_mirror addr k
  ⟨readByte_of_window_eq h s, writeByte_of_window_eq h v s, readBytes_of_window_eq h n s, writeBytes_of_window_eq h vs s⟩

/-! ### Reads -/

/-- Wherever it completes, the operation adds one output and changes nothing else, and it adds the same output again. -/
def ReadsOnly (i : Instr) : Prop :=
  ∀ s t, exec i s = .next t → ∃ o, t = s.emit [o] ∧ exec i t = .next (t.emit [o])

/-- An operation that only puts out a result is a read if outputs do not change the result. -/
theorem readsOnly_of_result {i : Instr} {result : State → Output} (hexec : ∀ s, exec i s = .next (s.emit [result s]))
    (hresult : ∀ s os, result (s.emit os) = result s) : ReadsOnly i := by
  intro s t h
  obtain rfl : s.emit [result s] = t := by simpa [hexec] using h
  exact ⟨result s, rfl, by rw [hexec, hresult]⟩

theorem loadBytes_eq_some {s t : State} {addr : Addr} {n : Nat} :
    s.loadBytes addr n = some t ↔ ∃ bytes, memRead s.cfg s.mem addr n = some bytes ∧ t = s.emit [.memBytes bytes] := by
  unfold State.loadBytes
  cases memRead s.cfg s.mem addr n <;> simp [eq_comm]

/-- A bulk read that is defined stays defined: it changes no memory (rule R66). -/
theorem readBytes_readsOnly (addr : Addr) (n : Nat) : ReadsOnly (.readBytes addr n) := by
  intro s t h
  obtain ⟨bytes, hread, rfl⟩ := loadBytes_eq_some.1 (orCrossing_eq_next.1 h)
  exact ⟨.memBytes bytes, rfl, orCrossing_eq_next.2 (loadBytes_eq_some.2 ⟨bytes, hread, rfl⟩)⟩

/-- Settles O25: each of the operations is a read. -/
theorem readsHaveNoSideEffect : Obligations.ReadsHaveNoSideEffect := by
  intro s t addr n p i hi
  suffices hreads : ReadsOnly i from hreads s t
  cases i with
  | readByte _ | inSystem | inPlayer1 | inPlayer2 | inShiftResult | inOther _ | srRead | convert =>
    exact readsOnly_of_result (fun _ => rfl) fun _ _ => rfl
  | regionProgram _ x | regionWorking _ x | regionVideo2400 _ x | regionVideo2800 _ x | regionVideo3000 _ x =>
    obtain ⟨-, rfl⟩ : _ = addr ∧ x = .read := by simpa using hi
    exact readsOnly_of_result (fun _ => rfl) fun _ _ => rfl
  | readBytes addr n => exact readBytes_readsOnly addr n
  | _ => simp at hi

/-! ### The engine's memory operations -/

/-- An engine operation does what the operation of its name does (rule R140). -/
theorem exec_memOpInstr (op : MemOp) (s : State) : exec (memOpInstr op) s = orCrossing (s.memOp op) := by
  cases op <;> rfl

/-- A store that is closed stays closed over an engine operation. -/
theorem memOp_seal {s u : State} {op : MemOp} (h : s.seal.memOp op = some u) : u.seal = u := by
  obtain ⟨os, hu, -⟩ := memOp_frame h
  rw [hu]; rfl

/-- The first engine operation of an iteration, where it is defined, comes before the iteration with the others. -/
theorem iteration_memOp_cons {s u : State} {op : MemOp} (x : EngineAnswer) (h : s.seal.memOp op = some u) :
    s.iteration { x with memOps := op :: x.memOps } = u.iteration x := by
  simp only [State.iteration, State.memOps, h, memOp_seal h]
  rfl

theorem iteration_memOp_undefined {s : State} {op : MemOp} (x : EngineAnswer) (h : s.seal.memOp op = none) :
    s.iteration { x with memOps := op :: x.memOps } = none := by
  simp only [State.iteration, State.memOps, h]

/-- Settles O37: the first engine operation is defined or refused, alone as in the iteration. -/
theorem engineMemoryOperationsInOrder : Obligations.EngineMemoryOperationsInOrder := by
  intro s op x
  have hexec : exec (memOpInstr op) { s with programSealed := true } = orCrossing (s.seal.memOp op) := exec_memOpInstr op s.seal
  rw [hexec]
  cases h : s.seal.memOp op with
  | some u => exact congrArg orCrossing (iteration_memOp_cons x h)
  | none => exact congrArg orCrossing (iteration_memOp_undefined x h)

end Sys2Proof.Machine
end

section
/-! PROOFS. The spec's selector words (30_encoding.md, sections 2, 3 and 7) under the recommended configuration: an I/O or a
memory word is a request of the encoder, and its operation is what the port or the address selects. -/

namespace Sys2Proof

/-- Settles O60: the first five words are the requests of ports 4, 2, 3 and 9 and of address `0xE400`, the last two are ids. -/
theorem specWordsDecode : Obligations.SpecWordsDecode := by
  refine ⟨?shiftData, ?shiftAmount, ?shiftResult, ?inOther, ?video, ?runClear, ?unlistedId⟩
  case shiftData => exact decode_outRequest Config.recommended 4 0xAA
  case shiftAmount => exact decode_outRequest Config.recommended 2 0x07
  case shiftResult => exact decode_inRequest Config.recommended 3
  case inOther => exact decode_inRequest Config.recommended 9
  case video => exact decode_memRequest Config.recommended 0xE400 (.write 0x81)
  case runClear => rfl
  case unlistedId => rfl

end Sys2Proof
end

section
/-! PROOFS. The shift register (40_shift_register.md, sections 2 and 3): what a feed, an amount write and a read are in plain
arithmetic, what a run of feeds and amount writes leaves, and the reads of the shift idiom. -/

namespace Sys2Proof

/-! ### A feed -/

theorem toNat_highHalf (reg : BitVec 16) : (reg.extractLsb' 8 8).toNat = reg.toNat >>> 8 := by
  rw [BitVec.extractLsb'_toNat, Nat.mod_eq_of_lt (by rw [Nat.shiftRight_eq_div_pow]; omega)]

/-- The two halves of a fed register do not overlap. -/
theorem toNat_feedReg_or (b : Byte) (reg : BitVec 16) : (feedReg b reg).toNat = b.toNat <<< 8 ||| reg.toNat >>> 8 := by
  rw [← toNat_highHalf]
  exact BitVec.toNat_append b _

/-- Rule R111, in the spec's own form. -/
theorem feedReg_eq_or (b : Byte) (reg : BitVec 16) : feedReg b reg = (b.setWidth 16 <<< 8) ||| (reg >>> 8) := by
  refine BitVec.eq_of_toNat_eq ?_
  have hwide : b.toNat < 2 ^ 16 := by omega
  have hfits : b.toNat <<< 8 < 2 ^ 16 := by rw [Nat.shiftLeft_eq]; omega
  rw [toNat_feedReg_or, BitVec.toNat_or, BitVec.toNat_shiftLeft, BitVec.toNat_ushiftRight, BitVec.toNat_setWidth,
    Nat.mod_eq_of_lt hwide, Nat.mod_eq_of_lt hfits]

theorem toNat_feedReg (b : Byte) (reg : BitVec 16) : (feedReg b reg).toNat = 256 * b.toNat + reg.toNat / 256 := by
  have hhigh : reg.toNat >>> 8 < 2 ^ 8 := toNat_highHalf reg ▸ (reg.extractLsb' 8 8).isLt
  rw [toNat_feedReg_or, ← Nat.shiftLeft_add_eq_or_of_lt hhigh, Nat.shiftLeft_eq, Nat.shiftRight_eq_div_pow, Nat.mul_comm]

/-- The fed byte is the high half. -/
theorem toNat_feedReg_div (b : Byte) (reg : BitVec 16) : (feedReg b reg).toNat / 256 = b.toNat := by
  rw [toNat_feedReg]; omega

/-- The old high half is the low half. -/
theorem toNat_feedReg_mod (b : Byte) (reg : BitVec 16) : (feedReg b reg).toNat % 256 = reg.toNat / 256 := by
  rw [toNat_feedReg]; omega

/-- Rule R119: two feeds fill the register. -/
theorem feedReg_feedReg (b b' : Byte) (reg : BitVec 16) : feedReg b (feedReg b' reg) = b ++ b' :=
  congrArg (b ++ ·) BitVec.extractLsb'_append_eq_left

/-! ### The amount -/

theorem toNat_amountOf (n : Byte) : (amountOf n).toNat = n.toNat % 8 := BitVec.toNat_setWidth 3 n

/-- Rule R112. -/
theorem amountOf_eq_mod (n : Byte) : amountOf n = BitVec.ofNat 3 (n.toNat % 8) := by
  rw [← toNat_amountOf, BitVec.ofNat_toNat, BitVec.setWidth_eq]

/-! ### The window that a read gives -/

/-- A shift by at most eight to the left and then by eight to the right is a shift to the right by what is missing. -/
theorem shiftLeft_shiftRight_eight (x : Nat) {n : Nat} (hn : n ≤ 8) : (x <<< n) >>> 8 = x >>> (8 - n) := by
  calc (x <<< n) >>> 8 = (x <<< n) >>> (n + (8 - n)) := by rw [Nat.add_sub_cancel' hn]
    _ = x >>> (8 - n) := by rw [Nat.shiftRight_add, Nat.shiftLeft_shiftRight]

/-- The two bytes of a value shifted left by at most eight. -/
theorem shiftRight_add_shiftLeft_mod (x : Nat) {n : Nat} (hn : n ≤ 8) : 256 * x >>> (8 - n) + (x <<< n) % 256 = x <<< n := by
  rw [← shiftLeft_shiftRight_eight x hn, Nat.shiftRight_eq_div_pow]
  exact Nat.div_add_mod _ _

section
variable (reg : BitVec 16) (a : BitVec 3)

theorem toNat_shiftWindow : (shiftWindow reg a).toNat = reg.toNat / 2 ^ (8 - a.toNat) % 256 := by
  rw [← Nat.shiftRight_eq_div_pow]
  exact BitVec.extractLsb'_toNat _ _ _

/-- Rule R113. -/
theorem shiftWindow_eq_div : shiftWindow reg a = BitVec.ofNat 8 (reg.toNat / 2 ^ (8 - a.toNat) % 256) := by
  rw [← toNat_shiftWindow, BitVec.ofNat_toNat, BitVec.setWidth_eq]

/-- Rule R114(a). -/
theorem getLsbD_shiftWindow {k : Nat} (hk : k < 8) :
    (shiftWindow reg a).getLsbD k = reg.getLsbD (k + 8 - a.toNat) := by
  have hpos : 8 - a.toNat + k = k + 8 - a.toNat := by omega
  simp [shiftWindow, hk, hpos]

/-- Rule R114(b): the high byte of the register shifted left. -/
theorem toNat_shiftWindow_eq_shiftLeft : (shiftWindow reg a).toNat = ((reg.toNat <<< a.toNat) >>> 8) % 256 := by
  rw [shiftLeft_shiftRight_eight _ (by omega), toNat_shiftWindow, Nat.shiftRight_eq_div_pow]

/-- Rule R114(c): the low `a` bits of the window are the top of the low half, the others the bottom of the high half. -/
theorem toNat_shiftWindow_eq_halves : (shiftWindow reg a).toNat =
    ((reg.toNat / 256) <<< a.toNat) % 256 ||| (reg.toNat % 256) >>> (8 - a.toNat) := by
  refine Nat.eq_of_testBit_eq fun k => ?_
  rw [toNat_shiftWindow, show 256 = 2 ^ 8 from rfl]
  simp only [Nat.testBit_or, Nat.testBit_shiftLeft, Nat.testBit_shiftRight, Nat.testBit_mod_two_pow,
    Nat.testBit_div_two_pow, Nat.add_comm _ k]
  by_cases hk : a.toNat ≤ k
  · have hhigh : ¬ k + (8 - a.toNat) < 8 := by omega
    have hpos : k - a.toNat + 8 = k + (8 - a.toNat) := by omega
    simp [hk, hhigh, hpos]
  · have hlow : k + (8 - a.toNat) < 8 := by omega
    have hbyte : k < 8 := by omega
    simp [hk, hlow, hbyte]

/-- The halves of a fed register are the byte and the old high half. -/
theorem toNat_shiftWindow_feedReg (b : Byte) : (shiftWindow (feedReg b reg) a).toNat =
    (b.toNat <<< a.toNat) % 256 ||| (reg.toNat / 256) >>> (8 - a.toNat) := by
  rw [toNat_shiftWindow_eq_halves, toNat_feedReg_div, toNat_feedReg_mod]

end

end Sys2Proof

namespace Sys2Proof.Machine

/-! ### The operations -/

/-- Settles O1: both forms are `feed`, and the fed register is the spec's. -/
theorem feedShiftsByteIntoHighHalf : Obligations.FeedShiftsByteIntoHighHalf := by
  intro s b
  rw [← feedReg_eq_or]
  exact ⟨rfl, rfl⟩

/-- Settles O2: both forms are `set_amount`, and the amount kept is the spec's. -/
theorem setAmountKeepsLowThreeBits : Obligations.SetAmountKeepsLowThreeBits := by
  intro s n
  rw [← amountOf_eq_mod]
  exact ⟨rfl, rfl⟩

/-- Settles O3: both forms put out the window, and the window is the spec's. -/
theorem shiftReadReturnsWindow : Obligations.ShiftReadReturnsWindow := by
  intro s r
  have hr : s.shiftRead = r := shiftWindow_eq_div s.srReg s.srAmount
  rw [← hr]
  exact ⟨rfl, rfl⟩

/-- Settles O4: each form is an equation of the window; at amounts 0 and 7 it starts at bit 8 and at bit 1. -/
theorem shiftReadEquivalentForms : Obligations.ShiftReadEquivalentForms := by
  intro s
  refine ⟨s.shiftRead, rfl, fun k => getLsbD_shiftWindow s.srReg s.srAmount, toNat_shiftWindow_eq_shiftLeft s.srReg s.srAmount,
    toNat_shiftWindow_eq_halves s.srReg s.srAmount, fun h0 => ?_, fun h7 => ?_⟩
  · rw [State.shiftRead, toNat_shiftWindow, h0]
    exact Nat.mod_eq_of_lt (by simp; omega)
  · rw [State.shiftRead, toNat_shiftWindow, h7]
    rfl

/-! ### Runs of feeds and amount writes -/

/-- An operation that feeds or sets the amount does that one thing. -/
theorem feed_or_setAmount {i : Instr} (hi : (fedByte i).isSome = true ∨ (amountByte i).isSome = true) :
    (∃ b, fedByte i = some b ∧ amountByte i = none ∧ ∀ s, exec i s = .next (s.feed b)) ∨
    (∃ n, fedByte i = none ∧ amountByte i = some n ∧ ∀ s, exec i s = .next (s.setAmountByte n)) := by
  cases i with
  | srFeed b | outShiftData b => exact .inl ⟨b, rfl, rfl, fun _ => rfl⟩
  | srSetAmount n | outShiftAmount n => exact .inr ⟨n, rfl, rfl, fun _ => rfl⟩
  | _ => simp [fedByte, amountByte] at hi

/-- A run of feeds and amount writes feeds its bytes and sets its amounts, the last ones outermost. -/
theorem runOps_feeds_and_amounts {ops : List Instr} (s : State)
    (hops : ∀ i ∈ ops, (fedByte i).isSome = true ∨ (amountByte i).isSome = true) :
    runOps ops s = .next { s with
      srReg := (ops.filterMap fedByte).reverse.foldr feedReg s.srReg
      srAmount := (ops.filterMap amountByte).reverse.foldr (fun n _ => amountOf n) s.srAmount } := by
  induction ops generalizing s with
  | nil => rfl
  | cons i ops ih =>
    obtain ⟨hi, hrest⟩ := List.forall_mem_cons.1 hops
    obtain ⟨b, hfed, hamount, hexec⟩ | ⟨n, hfed, hamount, hexec⟩ := feed_or_setAmount hi
    · simp only [runOps, hexec, ih _ hrest]
      simp [hfed, hamount, State.feed, State.setReg]
    · simp only [runOps, hexec, ih _ hrest]
      simp [hfed, hamount, State.setAmountByte, State.setAmount]

/-- Settles O5: of the feeds the last two count, for two feeds fill the register; of the amount writes the last. -/
theorem registerHoldsLastTwoFedBytes : Obligations.RegisterHoldsLastTwoFedBytes := by
  intro ops s hops
  refine ⟨_, runOps_feeds_and_amounts s hops, ?reg, ?amount, rfl⟩
  case reg =>
    generalize (ops.filterMap fedByte).reverse = bytes
    match bytes with
    | [] => rfl
    | [b] => rfl
    | b :: b' :: _ => exact feedReg_feedReg b b' _
  case amount =>
    generalize (ops.filterMap amountByte).reverse = bytes
    match bytes with
    | [] => rfl
    | n :: _ => rfl

/-! ### The shift idiom -/

/-- Rule R120 from any state: the first read has the byte over the old high half, the second zero over the byte. -/
theorem runOps_idiom (s : State) (b : Byte) : ∃ (t : State) (r1 r2 : Byte),
    runOps [.srFeed b, .srRead, .srFeed 0, .srRead] s = .next t ∧
    t.trace = s.trace ++ [.shiftResult r1, .shiftResult r2] ∧
    r1.toNat = (b.toNat <<< s.srAmount.toNat) % 256 ||| (s.srReg.toNat / 256) >>> (8 - s.srAmount.toNat) ∧
    r2.toNat = b.toNat >>> (8 - s.srAmount.toNat) := by
  refine ⟨_, shiftWindow (feedReg b s.srReg) s.srAmount, shiftWindow (feedReg 0 (feedReg b s.srReg)) s.srAmount,
    rfl, List.append_assoc _ _ _, toNat_shiftWindow_feedReg _ _ _, ?_⟩
  rw [toNat_shiftWindow_feedReg, toNat_feedReg_div]
  simp

/-- Settles O6: the byte under `b` is the one fed before it, or the high half that the start state has. -/
theorem shiftIdiomGivesSixteenBitShift : Obligations.ShiftIdiomGivesSixteenBitShift := by
  intro s n l b
  rw [← toNat_amountOf]
  constructor
  · obtain ⟨t, r1, r2, hrun, htrace, hr1, hr2⟩ := runOps_idiom ((s.setAmountByte n).feed l) b
    refine ⟨t, r1, r2, hrun, htrace, ?_, hr2⟩
    have hlow : l.toNat >>> (8 - (amountOf n).toNat) < 2 ^ 8 := Nat.lt_of_le_of_lt (Nat.shiftRight_le _ _) l.isLt
    calc r1.toNat = (b.toNat <<< (amountOf n).toNat) % 2 ^ 8 ||| l.toNat >>> (8 - (amountOf n).toNat) := by
          rw [← toNat_feedReg_div l s.srReg]; exact hr1
      _ = (b.toNat <<< (amountOf n).toNat ||| l.toNat >>> (8 - (amountOf n).toNat)) % 2 ^ 8 := by
          rw [Nat.or_mod_two_pow, Nat.mod_eq_of_lt hlow]
  · intro hzero
    obtain ⟨t, r1, r2, hrun, htrace, hr1, hr2⟩ := runOps_idiom (s.setAmountByte n) b
    have hhigh : s.srReg.toNat / 256 = 0 := by
      rw [← Nat.shiftRight_eq_div_pow _ 8, ← toNat_highHalf, hzero]
      rfl
    have hlow : r1.toNat = (b.toNat <<< (amountOf n).toNat) % 256 := by
      simpa [State.setAmountByte, hhigh] using hr1
    refine ⟨t, r1, r2, hrun, htrace, hlow, hr2, ?_⟩
    rw [hlow, show r2.toNat = b.toNat >>> (8 - (amountOf n).toNat) from hr2]
    exact shiftRight_add_shiftLeft_mod _ (by omega)

end Sys2Proof.Machine
end

section
/-! PROOFS. The memory image (20_memory.md, section 5; 41_memory_image.md, sections 2 and 3): what a byte access does, what a bulk
access of a defined range does, what a load leaves, and that nothing else writes the Program region. -/

namespace Sys2Proof.Machine

/-! ### Regions as ranges of window addresses -/

theorem inRegion_iff {c : Config} {a : Nat} : inRegion c a ↔ regionOf c a ≠ none := by
  rw [Ne, regionOf_eq_none]
  constructor
  · rintro (h | h | h) hnone
    · exact hnone .program h
    · exact hnone .working h
    · exact hnone .video h
  · intro h
    obtain ⟨r, hr⟩ := not_forall_not.1 h
    cases r with
    | program => exact .inl hr
    | working => exact .inr (.inl hr)
    | video => exact .inr (.inr hr)

theorem isWritable_iff {c : Config} (hc : c.RegionsOk) {a : Nat} :
    isWritable c a ↔ regionOf c a = some .working ∨ regionOf c a = some .video :=
  or_congr ⟨regionOf_eq_some hc (r := .working), regionOf_bounds⟩ ⟨regionOf_eq_some hc (r := .video), regionOf_bounds⟩

/-- Rule R133: a program may not write the Program region. -/
theorem not_isWritable_program {c : Config} (hc : c.RegionsOk) {k : Nat} (hk : k < c.progSize) :
    ¬ isWritable c (c.progBase + k) := by
  have hr : regionOf c (c.progBase + k) = some .program :=
    regionOf_eq_some hc ⟨Nat.le_add_right _ _, Nat.add_lt_add_left hk _⟩
  simp [isWritable_iff hc, hr]

theorem regionOf_lt {c : Config} (hc : c.RegionsOk) {a : Nat} {r : Region} (h : regionOf c a = some r) : a < 0x4000 :=
  Nat.lt_of_lt_of_le (regionOf_bounds h).2 (region_in_window hc r)

/-- Every byte of a range inside a region is in that region. -/
theorem regionOf_of_span {c : Config} (hc : c.RegionsOk) {a n k : Nat} {r : Region} (h : spanRegion c a n = some r)
    (hk : k < n) : regionOf c (a + k) = some r := by
  obtain ⟨hlo, hhi⟩ := (spanRegion_eq_some hc (by omega)).1 h
  exact regionOf_eq_some hc (by omega)

/-- A range inside a region is writable as that region is (rule R67). -/
theorem isWritable_of_span {c : Config} (hc : c.RegionsOk) {a n k : Nat} {r : Region} (h : spanRegion c a n = some r)
    (hk : k < n) : isWritable c (a + k) ↔ r ≠ .program := by
  rw [isWritable_iff hc, regionOf_of_span hc h hk]
  cases r <;> simp

/-- A defined range is empty, wholly inside one region, or one byte in no region (rules R66, R67). -/
theorem rangeDefined_cases {c : Config} (hc : c.RegionsOk) {addr : Addr} {n : Nat} (h : rangeDefined c addr n) :
    n = 0 ∨ (∃ r, n ≠ 0 ∧ spanRegion c (window addr) n = some r) ∨ (n = 1 ∧ regionOf c (window addr) = none) := by
  rw [rangeDefined, ← window_eq_mod] at h
  rcases Nat.eq_zero_or_pos n with hn | hn
  · exact .inl hn
  · have hspan : ∀ r, c.base r ≤ window addr ∧ window addr + n ≤ c.base r + c.size r →
        ∃ r, n ≠ 0 ∧ spanRegion c (window addr) n = some r :=
      fun r hr => ⟨r, by omega, (spanRegion_eq_some hc hn).2 hr⟩
    obtain hone | hr | hr | hr := h
    · obtain rfl : n = 1 := by omega
      rw [spanRegion_one] at hspan ⊢
      cases hr : regionOf c (window addr) with
      | none => exact .inr (.inr ⟨rfl, rfl⟩)
      | some r => exact .inr (.inl ⟨r, by simp⟩)
    · exact .inr (.inl (hspan .program hr))
    · exact .inr (.inl (hspan .working hr))
    · exact .inr (.inl (hspan .video hr))

/-! ### Byte accesses -/

/-- Rule R131, with the regions as ranges. -/
theorem readByteAt_eq (c : Config) (m : Memory) (addr : Addr) :
    readByteAt c m addr = if inRegion c (window addr) then m.read (window addr) else 0 := by
  unfold readByteAt
  split <;> simp [inRegion_iff, *]

/-- Rules R132, R137. -/
theorem writeByteAt_writable {c : Config} (hc : c.RegionsOk) {addr : Addr} (h : isWritable c (window addr)) (m : Memory)
    (v : Byte) : writeByteAt c m addr v = m.write (window addr) v := by
  rw [isWritable_iff hc] at h
  unfold writeByteAt
  rcases h with h | h <;> rw [h]

/-- Rule R133, and the same where there is no region (log 16). -/
theorem writeByteAt_discarded {c : Config} (hc : c.RegionsOk) {addr : Addr} (h : ¬ isWritable c (window addr)) (m : Memory)
    (v : Byte) : writeByteAt c m addr v = m := by
  rw [isWritable_iff hc] at h
  obtain ⟨-, hr⟩ | ⟨hm, -⟩ := writeByteAt_cases c m addr v
  · exact absurd hr h
  · exact hm

/-- A byte write stores to its window address at most. -/
theorem read_writeByteAt_other {c : Config} {m : Memory} (h : m.wf) {addr : Addr} {a : Nat} (ha : a ≠ window addr) (v : Byte) :
    (writeByteAt c m addr v).read a = m.read a := by
  obtain ⟨hm, -⟩ | ⟨hm, -⟩ := writeByteAt_cases c m addr v <;> rw [hm]
  exact Memory.read_write_other h ha v

theorem read_writeByteAt_same {c : Config} (hc : c.RegionsOk) {m : Memory} (h : m.wf) {addr : Addr}
    (hw : isWritable c (window addr)) (v : Byte) : (writeByteAt c m addr v).read (window addr) = v := by
  rw [writeByteAt_writable hc hw]
  exact Memory.read_write_same h _ v

/-- Settles O14: each of the six operations is a byte read, and a byte read gives the window cell. -/
theorem byteReadReturnsWindowCell : Obligations.ByteReadReturnsWindowCell := by
  intro s addr
  rw [← window_eq_mod, ← readByteAt_eq]
  simp only [List.forall_mem_cons]
  exact ⟨rfl, rfl, rfl, rfl, rfl, rfl, List.forall_mem_nil _⟩

/-- Settles O15: each of the six operations is a byte write, which stores to a writable window address or nowhere. -/
theorem byteWriteStoresInWritableRegions : Obligations.ByteWriteStoresInWritableRegions := by
  intro s addr v hc hm
  rw [← window_eq_mod]
  suffices hexec : ∀ i ∈ [Instr.writeByte addr v, .regionProgram addr (.write v), .regionWorking addr (.write v),
      .regionVideo2400 addr (.write v), .regionVideo2800 addr (.write v), .regionVideo3000 addr (.write v)],
      exec i s = .next (s.storeByte addr v) from fun i hi =>
    ⟨_, hexec i hi, fun _ ha => read_writeByteAt_other hm ha v, fun hw => read_writeByteAt_same hc hm hw v,
      fun hw => writeByteAt_discarded hc hw s.mem v⟩
  simp only [List.forall_mem_cons]
  exact ⟨rfl, rfl, rfl, rfl, rfl, rfl, List.forall_mem_nil _⟩

/-- Settles O16: the mirror has the window address of the write, whose cell holds the byte. -/
theorem writtenByteReadsBackAtEveryMirror : Obligations.WrittenByteReadsBackAtEveryMirror := by
  intro s addr v k hc hm hw
  rw [← window_eq_mod] at hw
  have hin : inRegion s.cfg (window addr) := .inr hw
  have hread : readByteAt s.cfg (writeByteAt s.cfg s.mem addr v) addr = v := by
    rw [readByteAt_eq, if_pos hin, read_writeByteAt_same hc hm hw]
  refine ⟨s.storeByte addr v, rfl, ?_⟩
  rw [readByte_of_window_eq (window_mirror addr k)]
  exact congrArg (fun b => Host.Outcome.next ((s.storeByte addr v).emit [.memBytes [b]])) hread

/-! ### Bulk reads -/

/-- Rule R66 on its defined ranges: each byte as a byte read would give it. -/
theorem memRead_of_defined {c : Config} (hc : c.RegionsOk) (m : Memory) {addr : Addr} {n : Nat} (h : rangeDefined c addr n) :
    memRead c m addr n = some ((List.range n).map fun k =>
      if inRegion c (window addr + k) then m.read (window addr + k) else 0) := by
  unfold memRead
  obtain rfl | ⟨r, hn, hspan⟩ | ⟨rfl, hnone⟩ := rangeDefined_cases hc h
  · rfl
  · rw [if_neg hn, hspan]
    refine congrArg some (List.map_congr_left fun k hk => (if_pos ?_).symm)
    simp [inRegion_iff, regionOf_of_span hc hspan (List.mem_range.1 hk)]
  · rw [spanRegion_one, hnone]
    simp [inRegion_iff, hnone]

/-- Settles O19: the bytes are listed by their place in the range. -/
theorem bulkReadReturnsRangeInOrder : Obligations.BulkReadReturnsRangeInOrder := by
  intro s addr n hc h
  rw [← window_eq_mod]
  refine ⟨_, orCrossing_eq_next.2 (loadBytes_eq_some.2 ⟨_, memRead_of_defined hc s.mem h, rfl⟩), by simp, fun k hk => ?_⟩
  simp [hk]

/-! ### Bulk writes -/

theorem storeBytes_eq_some {s t : State} {addr : Addr} {vs : List Byte} :
    s.storeBytes addr vs = some t ↔ ∃ m, memWrite s.cfg s.mem addr vs = some m ∧ t = s.setMem m := by
  unfold State.storeBytes
  cases memWrite s.cfg s.mem addr vs <;> simp [eq_comm]

/-- Rule R67: a bulk write of a defined range completes. -/
theorem memWrite_of_defined {c : Config} (hc : c.RegionsOk) (m : Memory) {addr : Addr} {vs : List Byte}
    (h : rangeDefined c addr vs.length) : ∃ m', memWrite c m addr vs = some m' := by
  unfold memWrite
  obtain hn | ⟨r, hn, hspan⟩ | ⟨hn, hnone⟩ := rangeDefined_cases hc h
  · exact ⟨m, if_pos hn⟩
  · rw [if_neg hn, hspan]
    cases r <;> exact ⟨_, rfl⟩
  · rw [hn, spanRegion_one, hnone]
    exact ⟨m, rfl⟩

/-- Rules R67, R133: a bulk write that completes has its range inside the window and either takes every byte, all of the range
being writable, or leaves memory as it is, none of it being so. -/
theorem memWrite_effect {c : Config} (hc : c.RegionsOk) {m m' : Memory} {addr : Addr} {vs : List Byte}
    (h : memWrite c m addr vs = some m') :
    ∃ w : Bool, (∀ k < vs.length, window addr + k < 0x4000 ∧ (isWritable c (window addr + k) ↔ w = true)) ∧
      m' = bif w then m.writeList (window addr) vs else m := by
  have hspan {r : Region} (hr : spanRegion c (window addr) vs.length = some r) (k : Nat) (hk : k < vs.length) :
      window addr + k < 0x4000 ∧ (isWritable c (window addr + k) ↔ r ≠ .program) :=
    ⟨regionOf_lt hc (regionOf_of_span hc hr hk), isWritable_of_span hc hr hk⟩
  unfold memWrite at h
  split at h
  case isTrue hn => cases h; exact ⟨false, by simp [hn], rfl⟩
  split at h <;> rename_i hr
  · cases h; exact ⟨false, by simpa using hspan hr, rfl⟩
  · cases h; exact ⟨true, by simpa using hspan hr, rfl⟩
  · cases h; exact ⟨true, by simpa using hspan hr, rfl⟩
  · split_ifs at h with hone
    cases h
    obtain ⟨hn, hnone⟩ := hone
    refine ⟨false, fun k hk => ?_, rfl⟩
    obtain rfl : k = 0 := by omega
    exact ⟨window_lt addr, by simp [isWritable_iff hc, hnone]⟩

/-- The byte writes of indexed bytes above a start address. -/
def byteWrites (addr : Addr) (xs : List (Byte × Nat)) : List Instr :=
  xs.map fun x => .writeByte (addr + BitVec.ofNat 16 x.2) x.1

theorem runOps_byteWrites_cons (addr : Addr) (x : Byte × Nat) (xs : List (Byte × Nat)) (s : State) :
    runOps (byteWrites addr (x :: xs)) s =
      runOps (byteWrites addr xs) (s.setMem (writeByteAt s.cfg s.mem (addr + BitVec.ofNat 16 x.2) x.1)) := rfl

/-- Byte writes at ascending addresses, all of them writable or none, store every byte or nothing. -/
theorem runOps_byteWrites {addr : Addr} {n : Nat} {vs : List Byte} {s : State} (hc : s.cfg.RegionsOk) {w : Bool}
    (h : ∀ k < vs.length, window addr + n + k < 0x4000 ∧ (isWritable s.cfg (window addr + n + k) ↔ w = true)) :
    runOps (byteWrites addr (vs.zipIdx n)) s =
      .next (s.setMem (bif w then s.mem.writeList (window addr + n) vs else s.mem)) := by
  induction vs generalizing n s with
  | nil => cases w <;> rfl
  | cons v vs ih =>
    obtain ⟨hin, hw⟩ := h 0 (by simp)
    have hwindow : window (addr + BitVec.ofNat 16 n) = window addr + n := window_add hin
    rw [Nat.add_zero, ← hwindow] at hw
    have hrest : ∀ k < vs.length, window addr + (n + 1) + k < 0x4000 ∧
        (isWritable s.cfg (window addr + (n + 1) + k) ↔ w = true) := fun k hk => by
      have hnext : window addr + (n + 1) + k = window addr + n + (k + 1) := by omega
      rw [hnext]
      exact h (k + 1) (by simpa using hk)
    rw [List.zipIdx_cons, runOps_byteWrites_cons]
    cases w with
    | true => rw [writeByteAt_writable hc (hw.2 rfl), hwindow]; exact ih hc hrest
    | false => rw [writeByteAt_discarded hc (by simp [hw])]; exact ih hc hrest

/-- Settles O20: all bytes of the range are stored by both, or none by either. -/
theorem bulkWriteIsByteWritesInOrder : Obligations.BulkWriteIsByteWritesInOrder := by
  intro s addr vs hc h
  obtain ⟨m, hm⟩ := memWrite_of_defined hc s.mem h
  refine ⟨s.setMem m, orCrossing_eq_next.2 (storeBytes_eq_some.2 ⟨m, hm, rfl⟩), rfl, ?_⟩
  obtain ⟨w, hrange, rfl⟩ := memWrite_effect hc hm
  exact runOps_byteWrites (n := 0) hc hrange

/-! ### The load -/

/-- Settles O22: Working and Video lie outside the Program region, where a load leaves zeros. -/
theorem loadFillsProgramAndClearsTheRest : Obligations.LoadFillsProgramAndClearsTheRest := by
  intro s im hc hopen him hlen
  obtain ⟨-, -, hwork, hvideo, -⟩ := hc
  exact ⟨_, execLoadProgram_open hopen hlen, rfl, fun k hk => read_loadedMemory him hk,
    fun k hk => read_loadedMemory_outside (c := s.cfg) im (by omega),
    fun k hk => read_loadedMemory_outside (c := s.cfg) im (by omega)⟩

/-! ### What leaves memory alone -/

@[simp] theorem writerFinish_mem (s : State) : s.writerFinish.mem = s.mem := by
  unfold State.writerFinish
  split <;> rfl

@[simp] theorem writerAcquire_mem (s : State) (f : Frame) : (s.writerAcquire f).mem = s.mem := by
  unfold State.writerAcquire
  split <;> simp

@[simp] theorem publishFrame_mem (s : State) (f : Frame) : (s.publishFrame f).mem = s.mem := by
  rw [publishFrame_parts, writerFinish_mem, writerAcquire_mem]

@[simp] theorem readerAcquire_mem (s : State) : s.readerAcquire.mem = s.mem := by
  unfold State.readerAcquire
  split <;> rfl

@[simp] theorem readerFinish_mem (s : State) : s.readerFinish.mem = s.mem := by
  unfold State.readerFinish
  split <;> rfl

@[simp] theorem present_mem (s : State) : s.present.mem = s.mem := by
  unfold State.present
  split <;> rfl

@[simp] theorem dispatch_mem (s : State) (q : IORequest) : (s.dispatch q).mem = s.mem := by
  obtain ⟨os, hframe, -⟩ := dispatch_frame s q
  rw [hframe]

@[simp] theorem frameEvent_mem (s : State) : s.frameEvent.mem = s.mem := by
  obtain ⟨-, h⟩ | ⟨-, -, h⟩ | ⟨-, -, h⟩ := frameEvent_cases s <;> rw [h]
  · simp [State.endOfFrame, State.raiseInterrupt]
  · rfl

/-- After the engine's own operations an iteration touches no memory. -/
@[simp] theorem afterStep_mem (s : State) (x : EngineAnswer) : (s.afterStep x).mem = s.mem := by
  simp [State.afterStep, State.advanceClock]

theorem execPublish_mem {source : FrameSource} {part : PublishPart} {s t : State}
    (h : execPublish source part s = .next t) : t.mem = s.mem := by
  cases part <;> cases h <;> simp

theorem execReadFrame_mem {part : ReadPart} {s t : State} (h : execReadFrame part s = .next t) : t.mem = s.mem := by
  cases part <;> cases h <;> simp

/-! ### The Program region -/

/-- The canonical form is kept, and the bytes of the Program region (rule R133). -/
def Memory.KeepsProgram (c : Config) (m m' : Memory) : Prop :=
  m.wf → m'.wf ∧ ∀ k < c.progSize, m'.read (c.progBase + k) = m.read (c.progBase + k)

namespace Memory.KeepsProgram

theorem refl (c : Config) (m : Memory) : m.KeepsProgram c m := fun h => ⟨h, fun _ _ => rfl⟩

theorem of_eq {c : Config} {m m' : Memory} (h : m' = m) : m.KeepsProgram c m' := h ▸ refl c m

theorem trans {c : Config} {m₁ m₂ m₃ : Memory} (h₁₂ : m₁.KeepsProgram c m₂) (h₂₃ : m₂.KeepsProgram c m₃) :
    m₁.KeepsProgram c m₃ := fun h => by
  obtain ⟨hwf₂, hread₂⟩ := h₁₂ h
  obtain ⟨hwf₃, hread₃⟩ := h₂₃ hwf₂
  exact ⟨hwf₃, fun k hk => (hread₃ k hk).trans (hread₂ k hk)⟩

end Memory.KeepsProgram

section
variable {c : Config} (hc : c.RegionsOk)
include hc

theorem writeByteAt_keepsProgram (m : Memory) (addr : Addr) (v : Byte) : m.KeepsProgram c (writeByteAt c m addr v) := by
  by_cases hw : isWritable c (window addr)
  · intro h
    refine ⟨writeByteAt_wf h c addr v, fun k hk => read_writeByteAt_other h (fun he => ?_) v⟩
    exact not_isWritable_program hc hk (he ▸ hw)
  · exact .of_eq (writeByteAt_discarded hc hw m v)

theorem memWrite_keepsProgram {m m' : Memory} {addr : Addr} {vs : List Byte} (hm : memWrite c m addr vs = some m') :
    m.KeepsProgram c m' := by
  obtain ⟨w, hrange, rfl⟩ := memWrite_effect hc hm
  cases w with
  | false => exact .refl c m
  | true =>
    refine fun h => ⟨Memory.wf_writeList h _ _, fun k hk => Memory.read_writeList_outside h ?_⟩
    by_contra hinside
    obtain ⟨j, hj⟩ := Nat.exists_eq_add_of_le (show window addr ≤ c.progBase + k by omega)
    obtain ⟨-, hwritable⟩ := hrange j (by omega)
    exact not_isWritable_program hc hk (hj ▸ hwritable.2 rfl)

end

section
variable {s t : State} (hc : s.cfg.RegionsOk)
include hc

theorem access_keepsProgram (addr : Addr) (x : Access) : s.mem.KeepsProgram s.cfg (s.access addr x).mem := by
  cases x with
  | read => exact .refl _ _
  | write v => exact writeByteAt_keepsProgram hc s.mem addr v

theorem memOp_keepsProgram {op : MemOp} (h : s.memOp op = some t) : s.mem.KeepsProgram s.cfg t.mem := by
  cases op with
  | readByte a => cases h; exact .refl _ _
  | writeByte a v => cases h; exact writeByteAt_keepsProgram hc s.mem a v
  | readBytes a n =>
    obtain ⟨bytes, -, rfl⟩ := loadBytes_eq_some.1 h
    exact .refl _ _
  | writeBytes a vs =>
    obtain ⟨m, hm, rfl⟩ := storeBytes_eq_some.1 h
    exact memWrite_keepsProgram hc hm

theorem memOps_keepsProgram {ops : List MemOp} (h : s.memOps ops = some t) : s.mem.KeepsProgram s.cfg t.mem := by
  induction ops generalizing s with
  | nil => cases h; exact .refl _ _
  | cons op ops ih =>
    unfold State.memOps at h
    split at h
    · rename_i u hu
      have hcfg : u.cfg = s.cfg := (memOp_extends hu).cfg_eq
      exact (memOp_keepsProgram hc hu).trans (hcfg ▸ ih (hcfg ▸ hc) h)
    · cases h

theorem iteration_keepsProgram {x : EngineAnswer} (h : s.iteration x = some t) : s.mem.KeepsProgram s.cfg t.mem := by
  unfold State.iteration at h
  split at h <;> cases h
  rename_i u hu
  rw [afterStep_mem]
  exact memOps_keepsProgram (s := s.seal) hc hu

theorem iterations_keepsProgram {xs : List EngineAnswer} (h : s.iterations xs = some t) :
    s.mem.KeepsProgram s.cfg t.mem := by
  induction xs generalizing s with
  | nil => cases h; exact .refl _ _
  | cons x xs ih =>
    unfold State.iterations at h
    split at h
    · rename_i u hu
      have hcfg : u.cfg = s.cfg := (iteration_extends hu).cfg_eq
      exact (iteration_keepsProgram hc hu).trans (hcfg ▸ ih (hcfg ▸ hc) h)
    · cases h

/-- Rules R133, R139(c): an operation other than a load keeps the Program region. -/
theorem exec_keepsProgram {i : Instr} (hi : ∀ im, i ≠ .loadProgram im) (h : exec i s = .next t) :
    s.mem.KeepsProgram s.cfg t.mem := by
  cases i with
  | outWatchdog _ | outOther _ _ | outShiftAmount _ | outShiftData _ | outSoundBankA _ | outSoundBankB _ | inSystem
  | inPlayer1 | inPlayer2 | inShiftResult | inOther _ | srFeed _ | srSetAmount _ | srRead | convert | latchSet _ _
  | latchClear _ _ | runClear => cases h; exact .refl _ _
  | regionProgram addr x | regionWorking addr x | regionVideo2400 addr x | regionVideo2800 addr x
  | regionVideo3000 addr x => cases h; exact access_keepsProgram hc addr x
  | readByte addr => cases h; exact access_keepsProgram hc addr .read
  | writeByte addr v => cases h; exact access_keepsProgram hc addr (.write v)
  | readBytes addr n => exact memOp_keepsProgram hc (op := .readBytes addr n) (orCrossing_eq_next.1 h)
  | writeBytes addr vs => exact memOp_keepsProgram hc (op := .writeBytes addr vs) (orCrossing_eq_next.1 h)
  | loadProgram image => exact absurd rfl (hi image)
  | schedIteration x => exact iteration_keepsProgram hc (orCrossing_eq_next.1 h)
  | schedBatch xs => exact iterations_keepsProgram (s := s.setBatch 0 0) hc (orCrossing_eq_next.1 h)
  | publish source part => exact .of_eq (execPublish_mem h)
  | readFrame part => exact .of_eq (execReadFrame_mem h)

end

/-- Settles O24: an operation writes memory by byte and bulk writes only, and these store to writable addresses. -/
theorem programRegionNeverChanges : Obligations.ProgramRegionNeverChanges := by
  intro i s t k hc hm hi h hk
  obtain ⟨-, hread⟩ := exec_keepsProgram hc hi h hm
  exact hread k hk

end Sys2Proof.Machine
end

section
/-! PROOFS. The I/O dispatcher (42_io_port_dispatcher.md, sections 1 to 3): the operations that change no state, the request served
in its iteration, and which operations write the shift register, its amount and the sound latches. -/

namespace Sys2Proof.Machine

/-! ### Operations that change no state -/

/-- Settles O11: neither operation is more than its next state, which is the state itself. -/
theorem watchdogAndUnknownOutputsDoNothing : Obligations.WatchdogAndUnknownOutputsDoNothing := fun _ _ _ => ⟨rfl, rfl⟩

/-- Settles O12: each operation hands the engine one byte, of its latch or zero. -/
theorem inputPortsReturnLatchesAndZero : Obligations.InputPortsReturnLatchesAndZero := fun _ _ => ⟨rfl, rfl, rfl, rfl⟩

/-! ### The pending request -/

/-- Rules R94, R150: an output request is served by the operation that its port selects. -/
theorem exec_outInstr (s : State) (p : Port) (b : Byte) :
    exec (outInstr s.cfg p b) s = .next (s.dispatch (.output p b)) := by
  simp only [State.dispatch, State.output, outInstr]
  cases selectOut s.cfg p <;> rfl

/-- Rules R95, R150: an input request is served by the operation that its port selects. -/
theorem exec_inInstr (s : State) (p : Port) : exec (inInstr s.cfg p) s = .next (s.dispatch (.input p)) := by
  simp only [State.dispatch, State.inputValue, inInstr]
  cases selectIn s.cfg p <;> rfl

/-- Rule R201: an iteration without memory operations closes the store and is clock, dispatch and frame event. -/
theorem exec_schedIteration_without_memOps (s : State) (n : Nat) (q : IORequest) :
    exec (.schedIteration ⟨n, [], q⟩) s = .next ((s.seal.advanceClock n).dispatch q).frameEvent := rfl

/-- Settles O36: what the iteration dispatches in the advanced state is the operation that the port selects. -/
theorem pendingRequestIsServedInItsIteration : Obligations.PendingRequestIsServedInItsIteration := by
  intro s n p b s1
  have iteration (q : IORequest) : exec (.schedIteration ⟨n, [], q⟩) s = .next (s1.dispatch q).frameEvent :=
    exec_schedIteration_without_memOps s n q
  exact ⟨⟨_, exec_outInstr s1 p b, iteration _⟩, ⟨_, exec_inInstr s1 p, iteration _⟩, iteration .idle⟩

/-! ### Who writes the shift register and the sound latches -/

/-- What the output ports write: the shift register, its amount and the two sound latches (rules R23, R24, R29, R30). -/
def State.portState (s : State) : BitVec 16 × BitVec 3 × Byte × Byte := (s.srReg, s.srAmount, s.prevA, s.prevB)

theorem access_portState (s : State) (addr : Addr) (x : Access) : (s.access addr x).portState = s.portState := by
  cases x <;> rfl

theorem memOp_portState {s t : State} {op : MemOp} (h : s.memOp op = some t) : t.portState = s.portState := by
  obtain ⟨os, ht, -⟩ := memOp_frame h
  rw [ht]; rfl

theorem writerFinish_portState (s : State) : s.writerFinish.portState = s.portState := by
  unfold State.writerFinish
  split <;> rfl

theorem writerAcquire_portState (s : State) (f : Frame) : (s.writerAcquire f).portState = s.portState := by
  unfold State.writerAcquire
  split
  · rfl
  · rfl
  · exact writerFinish_portState s

theorem execPublish_portState {source : FrameSource} {part : PublishPart} {s t : State}
    (h : execPublish source part s = .next t) : t.portState = s.portState := by
  cases part with
  | whole => cases h; exact (writerFinish_portState _).trans (writerAcquire_portState s _)
  | acquire => cases h; exact writerAcquire_portState s _
  | finish => cases h; exact writerFinish_portState s

theorem OnlyReads.portState_eq {s t : State} (h : OnlyReads s t) : t.portState = s.portState := by
  obtain ⟨os, -, ht⟩ := h.frame
  rw [ht]; rfl

/-- Rule R171: outside the scheduler an operation that is no feed, no amount write and no sound port writes none of the four. -/
theorem exec_portState {i : Instr} (hsched : isScheduler i = false) (hfed : fedByte i = none) (hamount : amountByte i = none)
    (hbankA : ∀ b, i ≠ .outSoundBankA b) (hbankB : ∀ b, i ≠ .outSoundBankB b) {s t : State} (h : exec i s = .next t) :
    t.portState = s.portState := by
  cases i with
  | srFeed _ | outShiftData _ => cases hfed
  | srSetAmount _ | outShiftAmount _ => cases hamount
  | outSoundBankA b => exact absurd rfl (hbankA b)
  | outSoundBankB b => exact absurd rfl (hbankB b)
  | schedIteration _ | schedBatch _ => cases hsched
  | outWatchdog _ | outOther _ _ | inSystem | inPlayer1 | inPlayer2 | inShiftResult | inOther _ | srRead | convert
  | latchSet _ _ | latchClear _ _ | runClear => cases h; rfl
  | regionProgram addr x | regionWorking addr x | regionVideo2400 addr x | regionVideo2800 addr x
  | regionVideo3000 addr x => cases h; exact access_portState s addr x
  | readByte addr => cases h; exact access_portState s addr .read
  | writeByte addr v => cases h; exact access_portState s addr (.write v)
  | readBytes addr n => exact memOp_portState (op := .readBytes addr n) (orCrossing_eq_next.1 h)
  | writeBytes addr vs => exact memOp_portState (op := .writeBytes addr vs) (orCrossing_eq_next.1 h)
  | loadProgram image => exact (execLoadProgram_onlyReads h).portState_eq
  | publish source part => exact execPublish_portState h
  | readFrame part => exact (execReadFrame_onlyReads h).portState_eq

/-- Settles O53: each of the four writers writes its own part only, and any other operation keeps all four parts. -/
theorem shiftAndSoundStateHaveOneWriterEach : Obligations.ShiftAndSoundStateHaveOneWriterEach := by
  intro i s t hsched h
  cases i with
  | srFeed _ | outShiftData _ => cases h; exact ⟨nofun, fun _ => rfl, fun _ => rfl, fun _ => rfl⟩
  | srSetAmount _ | outShiftAmount _ => cases h; exact ⟨fun _ => rfl, nofun, fun _ => rfl, fun _ => rfl⟩
  | outSoundBankA b => cases h; exact ⟨fun _ => rfl, fun _ => rfl, fun hbankA => absurd rfl (hbankA b), fun _ => rfl⟩
  | outSoundBankB b => cases h; exact ⟨fun _ => rfl, fun _ => rfl, fun _ => rfl, fun hbankB => absurd rfl (hbankB b)⟩
  | _ =>
    have hkept := exec_portState hsched rfl rfl nofun nofun h
    simp only [State.portState, Prod.mk.injEq] at hkept
    obtain ⟨hreg, hamount, hprevA, hprevB⟩ := hkept
    exact ⟨fun _ => hreg, fun _ => hamount, fun _ => hprevA, fun _ => hprevB⟩

end Sys2Proof.Machine
end

section
/-! PROOFS. The display converter (43_display_converter.md): the pixel map and its inverse in row and column coordinates, the frame
pixel by pixel, and with these what the frame shows, how many of its pixels are white and what it depends on. -/

namespace Sys2Proof

/-! ### The pixel map -/

/-- Line-major and row-major indexes are read back: the quotient of `q·n + r` is `q`. -/
theorem mul_add_div_of_lt {n r : Nat} (hr : r < n) (q : Nat) : (q * n + r) / n = q := by
  rw [Nat.add_comm, Nat.add_mul_div_right _ _ (Nat.zero_lt_of_lt hr), Nat.div_eq_of_lt hr, Nat.zero_add]

section
variable {c : Config}

/-- Rules R182, R183: bit `f` of line `s` goes to row `F − 1 − f`, column `s`. -/
theorem destPixel_lineBit {f : Nat} (hf : f < c.fastLen) (s : Nat) :
    destPixel c (s * c.fastLen + f) = (c.fastLen - 1 - f) * c.slowLen + s := by
  rw [destPixel, Nat.mul_add_mod_of_lt hf, mul_add_div_of_lt hf]

/-- Rule R186: the pixel in row `y`, column `x` shows bit `F − 1 − y` of line `x`. -/
theorem sourcePixel_rowColumn {x : Nat} (hx : x < c.slowLen) (y : Nat) :
    sourcePixel c (y * c.slowLen + x) = x * c.fastLen + (c.fastLen - 1 - y) := by
  rw [sourcePixel, Nat.mul_add_mod_of_lt hx, mul_add_div_of_lt hx]

/-- The line of a video pixel is one of the `S` lines. -/
theorem line_lt {p : Nat} (hp : p < c.pixels) : p / c.fastLen < c.slowLen := Nat.div_lt_of_lt_mul hp

/-- The place of a video pixel in its line is one of `F`. -/
theorem lineBit_lt {p : Nat} (hp : p < c.pixels) : p % c.fastLen < c.fastLen := Nat.mod_lt _ (Nat.pos_of_lt_mul_right hp)

/-- The row of an output pixel is one of the `F` rows. -/
theorem row_lt {q : Nat} (hq : q < c.pixels) : q / c.slowLen < c.fastLen :=
  Nat.div_lt_of_lt_mul (hq.trans_eq (Nat.mul_comm _ _))

/-- The column of an output pixel is one of the `S` columns. -/
theorem column_lt {q : Nat} (hq : q < c.pixels) : q % c.slowLen < c.slowLen := Nat.mod_lt _ (Nat.pos_of_lt_mul_left hq)

theorem destPixel_lt {p : Nat} (hp : p < c.pixels) : destPixel c p < c.pixels :=
  calc destPixel c p = c.slowLen * (c.fastLen - 1 - p % c.fastLen) + p / c.fastLen := by rw [destPixel, Nat.mul_comm]
    _ < c.pixels := Nat.mul_add_lt_mul_of_lt_of_lt (Nat.sub_one_sub_lt_of_lt (lineBit_lt hp)) (line_lt hp)

theorem sourcePixel_lt {q : Nat} (hq : q < c.pixels) : sourcePixel c q < c.pixels :=
  calc sourcePixel c q = c.fastLen * (q % c.slowLen) + (c.fastLen - 1 - q / c.slowLen) := by
        rw [sourcePixel, Nat.mul_comm]
    _ < c.slowLen * c.fastLen := Nat.mul_add_lt_mul_of_lt_of_lt (column_lt hq) (Nat.sub_one_sub_lt_of_lt (row_lt hq))
    _ = c.pixels := Nat.mul_comm _ _

/-- Rule R186: the rotation and back. -/
theorem sourcePixel_destPixel {p : Nat} (hp : p < c.pixels) : sourcePixel c (destPixel c p) = p :=
  calc sourcePixel c (destPixel c p)
      = p / c.fastLen * c.fastLen + (c.fastLen - 1 - (c.fastLen - 1 - p % c.fastLen)) := sourcePixel_rowColumn (line_lt hp) _
    _ = p / c.fastLen * c.fastLen + p % c.fastLen := by rw [Nat.sub_sub_self (Nat.le_sub_one_of_lt (lineBit_lt hp))]
    _ = p := Nat.div_add_mod' ..

/-- Rule R186: back and the rotation. -/
theorem destPixel_sourcePixel {q : Nat} (hq : q < c.pixels) : destPixel c (sourcePixel c q) = q :=
  calc destPixel c (sourcePixel c q)
      = (c.fastLen - 1 - (c.fastLen - 1 - q / c.slowLen)) * c.slowLen + q % c.slowLen :=
        destPixel_lineBit (Nat.sub_one_sub_lt_of_lt (row_lt hq)) _
    _ = q / c.slowLen * c.slowLen + q % c.slowLen := by rw [Nat.sub_sub_self (Nat.le_sub_one_of_lt (row_lt hq))]
    _ = q := Nat.div_add_mod' ..

theorem destPixel_injOn {p p' : Nat} (hp : p < c.pixels) (hp' : p' < c.pixels) (h : destPixel c p = destPixel c p') :
    p = p' := by
  rw [← sourcePixel_destPixel hp, h, sourcePixel_destPixel hp']

theorem sourcePixel_injOn {q q' : Nat} (hq : q < c.pixels) (hq' : q' < c.pixels) (h : sourcePixel c q = sourcePixel c q') :
    q = q' := by
  rw [← destPixel_sourcePixel hq, h, destPixel_sourcePixel hq']

/-- Rule R186: the output pixels in index order show every video pixel once. -/
theorem map_sourcePixel_perm (c : Config) :
    ((List.range c.pixels).map (sourcePixel c)).Perm (List.range c.pixels) := by
  have hnodup : ((List.range c.pixels).map (sourcePixel c)).Nodup :=
    List.nodup_range.map_on fun q hq q' hq' => sourcePixel_injOn (List.mem_range.1 hq) (List.mem_range.1 hq')
  refine (List.perm_ext_iff_of_nodup hnodup List.nodup_range).2 fun p => ?_
  simp only [List.mem_map, List.mem_range]
  constructor
  · rintro ⟨q, hq, rfl⟩
    exact sourcePixel_lt hq
  · exact fun hp => ⟨destPixel c p, destPixel_lt hp, sourcePixel_destPixel hp⟩

end

/-- Rule R108: video pixel `8i + b` is bit `b` of byte `i`. -/
theorem videoBit_byteBit (video : Nat → Byte) (i : Nat) {b : Nat} (hb : b < 8) :
    videoBit video (8 * i + b) = (video i).getLsbD b := by
  rw [videoBit, Nat.mul_comm, mul_add_div_of_lt hb, Nat.mul_add_mod_of_lt hb]

end Sys2Proof

namespace Sys2Proof.Machine

/-- Settles O27: each map keeps the range and undoes the other one, so the first is injective and onto. -/
theorem pixelMapIsABijection : Obligations.PixelMapIsABijection := fun _ _ =>
  ⟨fun _ hp => ⟨destPixel_lt hp, sourcePixel_lt hp, sourcePixel_destPixel hp, destPixel_sourcePixel hp⟩,
    fun _ _ => destPixel_injOn,
    fun q hq => ⟨sourcePixel _ q, sourcePixel_lt hq, destPixel_sourcePixel hq⟩⟩

/-! ### The frame -/

section
variable {c : Config}

/-- Rule R182: the output pixel at the rotated place of video pixel `p` has the colour of `p`. -/
theorem convertVideo_getElem?_destPixel (video : Nat → Byte) {p : Nat} (hp : p < c.pixels) :
    (convertVideo c video)[destPixel c p]? = some (colour c (videoBit video p)) := by
  rw [convertVideo, List.getElem?_map, List.getElem?_range (destPixel_lt hp), Option.map_some, sourcePixel_destPixel hp]

/-- Rule R11(c): the video pixels lie in the bytes of the Video region. -/
theorem div_eight_lt_videoSize (hg : c.GeometryOk) {p : Nat} (hp : p < c.pixels) : p / 8 < c.videoSize :=
  Nat.div_lt_of_lt_mul (hp.trans_eq hg.1)

/-- Rule R185: the frame depends on nothing but the bytes of the Video region. -/
theorem convertVideo_congr (hg : c.GeometryOk) {video video' : Nat → Byte} (h : ∀ i, i < c.videoSize → video i = video' i) :
    convertVideo c video = convertVideo c video' := by
  refine List.map_congr_left fun q hq => ?_
  have hbyte := h _ (div_eight_lt_videoSize hg (sourcePixel_lt (List.mem_range.1 hq)))
  rw [videoBit, videoBit, hbyte]

/-- Rule R184: where the colours differ, a pixel is white exactly if its video bit is set. -/
theorem colour_eq_white_iff (hne : c.pixelWhite ≠ c.pixelBlack) (lit : Bool) : colour c lit = c.pixelWhite ↔ lit = true := by
  cases lit with
  | true => exact iff_of_true rfl rfl
  | false => exact iff_of_false hne.symm nofun

/-- Rule R186: the rotation moves pixels about, so the frame has as many white pixels as there are lit video pixels. -/
theorem count_white_convertVideo (hne : c.pixelWhite ≠ c.pixelBlack) (video : Nat → Byte) :
    (convertVideo c video).count c.pixelWhite = (List.range c.pixels).countP (videoBit video) :=
  calc (convertVideo c video).count c.pixelWhite
      = (List.range c.pixels).countP (videoBit video ∘ sourcePixel c) := by
        rw [List.count, convertVideo, List.countP_map]
        exact List.countP_congr fun q _ => beq_iff_eq.trans (colour_eq_white_iff hne _)
    _ = ((List.range c.pixels).map (sourcePixel c)).countP (videoBit video) := List.countP_map.symm
    _ = (List.range c.pixels).countP (videoBit video) := (map_sourcePixel_perm c).countP_eq _

end

/-! ### The operation -/

/-- Rule R182: `convert` hands the frame to the caller. -/
theorem exec_convert (s : State) : exec .convert s = .next (s.emit [.converted s.convertFrame]) := rfl

/-- Settles O26: bit `b` of byte `i` is video pixel `8i + b`, whose place in the frame is `destPixel (8i + b)`. -/
theorem convertPlacesEveryVideoBit : Obligations.ConvertPlacesEveryVideoBit := by
  intro s hg
  refine ⟨s.convertFrame, exec_convert s, convertFrame_length s, (convertFrame_length s).trans hg.1, fun i b hi hb => ?_⟩
  have hp : 8 * i + b < s.cfg.pixels := lt_of_lt_of_eq (by omega) hg.1.symm
  calc s.convertFrame[destPixel s.cfg (8 * i + b)]?
      = some (colour s.cfg (videoBit s.videoByte (8 * i + b))) := convertVideo_getElem?_destPixel _ hp
    _ = some (colour s.cfg ((s.videoByte i).getLsbD b)) := by rw [videoBit_byteBit _ _ hb]

/-- Settles O28: the frame's white pixels are the lit video pixels, and there is one video pixel for each bit. -/
theorem whitePixelsCountTheSetBits : Obligations.WhitePixelsCountTheSetBits := by
  intro s t fr hg hne h htrace
  cases h
  have hfr : fr = s.convertFrame := by simpa using htrace.symm
  calc fr.count s.cfg.pixelWhite
      = (List.range s.cfg.pixels).countP (videoBit s.videoByte) := by rw [hfr]; exact count_white_convertVideo hne _
    _ = (List.range (8 * s.cfg.videoSize)).countP (videoBit s.videoByte) := by rw [← hg.1]; rfl
    _ = _ := List.countP_eq_length_filter

/-- Settles O29: two states that agree on the configuration and the Video bytes give one frame. -/
theorem convertDependsOnVideoOnly : Obligations.ConvertDependsOnVideoOnly := by
  intro s t hcfg hg hbytes
  have hframe : s.convertFrame = t.convertFrame :=
    calc convertVideo s.cfg s.videoByte = convertVideo s.cfg t.videoByte := convertVideo_congr hg hbytes
      _ = convertVideo t.cfg t.videoByte := by rw [hcfg]
  exact ⟨s.convertFrame, exec_convert s, hframe ▸ exec_convert t⟩

end Sys2Proof.Machine
end

section
/-! PROOFS. One iteration of the scheduler (44_scheduler.md, sections 1 and 2): it completes where the engine's operations are
defined, what it leaves alone, and what each frame event adds. -/

namespace Sys2Proof.Machine

/-! ### An iteration completes -/

/-- An engine operation with a defined effect completes (rules R66, R67). -/
theorem memOp_of_defined {s : State} (hc : s.cfg.RegionsOk) {op : MemOp} (h : opDefined s.cfg op) : ∃ t, s.memOp op = some t := by
  cases op with
  | readByte a | writeByte a v => exact ⟨_, rfl⟩
  | readBytes a n => exact ⟨_, loadBytes_eq_some.2 ⟨_, memRead_of_defined hc s.mem h, rfl⟩⟩
  | writeBytes a vs =>
    obtain ⟨m, hm⟩ := memWrite_of_defined hc s.mem h
    exact ⟨_, storeBytes_eq_some.2 ⟨m, hm, rfl⟩⟩

theorem memOps_of_defined {ops : List MemOp} {s : State} (hc : s.cfg.RegionsOk) (h : ∀ op ∈ ops, opDefined s.cfg op) :
    ∃ t, s.memOps ops = some t := by
  induction ops generalizing s with
  | nil => exact ⟨s, rfl⟩
  | cons op ops ih =>
    obtain ⟨hop, hops⟩ := List.forall_mem_cons.1 h
    obtain ⟨u, hu⟩ := memOp_of_defined hc hop
    rw [← (memOp_extends hu).cfg_eq] at hc hops
    obtain ⟨t, ht⟩ := ih hc hops
    exact ⟨t, by rw [State.memOps, hu]; exact ht⟩

theorem iteration_of_defined {s : State} (hc : s.cfg.RegionsOk) {x : EngineAnswer} (h : ∀ op ∈ x.memOps, opDefined s.cfg op) :
    ∃ t, s.iteration x = some t := by
  obtain ⟨v, hv⟩ := memOps_of_defined (s := s.seal) hc h
  exact ⟨v.afterStep x, by rw [State.iteration, hv]⟩

/-! ### What an iteration leaves alone -/

/-- A frame event writes the marks, the mirror and its lock, and adds outputs (rules R204, R206). -/
theorem frameEvent_frame (s : State) : s.frameEvent = { s with
    nextScreen := s.frameEvent.nextScreen, nextDisplay := s.frameEvent.nextDisplay, mirror := s.frameEvent.mirror
    lock := s.frameEvent.lock, trace := s.frameEvent.trace } := by
  obtain ⟨-, h⟩ | ⟨-, -, h⟩ | ⟨-, -, h⟩ := frameEvent_cases s <;> rw [h]
  · obtain ⟨-, e⟩ | ⟨-, e⟩ | ⟨g, -, e⟩ := endOfFrame_cases s <;> rw [e]
  · rfl

/-- A publish leaves the lock as it finds it, unless the writer had it before (rule R231). -/
theorem endOfFrame_lock {s : State} (h : ∀ g, s.lock ≠ .heldByWriter g) : s.endOfFrame.lock = s.lock := by
  obtain ⟨-, e⟩ | ⟨-, e⟩ | ⟨g, hl, -⟩ := endOfFrame_cases s
  · rw [e]
  · rw [e]
  · exact absurd hl (h g)

theorem frameEvent_lock {s : State} (h : ∀ g, s.lock ≠ .heldByWriter g) : s.frameEvent.lock = s.lock := by
  obtain ⟨-, e⟩ | ⟨-, -, e⟩ | ⟨-, -, e⟩ := frameEvent_cases s <;> rw [e]
  · exact endOfFrame_lock h
  · rfl

section
variable {s t : State} {x : EngineAnswer} (h : s.iteration x = some t)
include h

/-- All that an iteration changes; the clock, the counters and the store in full (rules R133, R201, R202). -/
theorem iteration_frame : t = { s with
    mem := t.mem, srReg := t.srReg, srAmount := t.srAmount, prevA := t.prevA, prevB := t.prevB
    emuClock := clockAdd s.cfg s.emuClock (stepNs s.cfg x.cycles)
    nextScreen := t.nextScreen, nextDisplay := t.nextDisplay, batchStepsDone := s.batchStepsDone + 1
    batchNs := s.batchNs + stepNs s.cfg x.cycles, mirror := t.mirror, lock := t.lock, programSealed := true
    trace := t.trace } := by
  obtain ⟨u, os, rfl, hu, -⟩ := iteration_cases h
  rw [frameEvent_frame u, hu]

theorem iteration_emuClock : t.emuClock = clockAdd s.cfg s.emuClock (stepNs s.cfg x.cycles) :=
  congrArg State.emuClock (iteration_frame h)

theorem iteration_lock (hl : ∀ g, s.lock ≠ .heldByWriter g) : t.lock = s.lock := by
  obtain ⟨u, os, rfl, hu, -⟩ := iteration_cases h
  have hlock : u.lock = s.lock := by rw [hu]
  rw [frameEvent_lock (hlock ▸ hl), hlock]

end

/-- Settles O30: the iteration of a defined answer completes, and the frames of an iteration say the rest. -/
theorem iterationAdvancesTheClock : Obligations.IterationAdvancesTheClock := by
  intro s x hc hx
  obtain ⟨t, ht⟩ := iteration_of_defined hc hx
  have hframe := iteration_frame ht
  obtain ⟨hlatch, hrun, hwaiting, hread⟩ := iteration_keepsPresentation ht
  obtain ⟨hcfg, htrace⟩ := iteration_extends ht
  exact ⟨t, orCrossing_eq_next.2 ht, iteration_emuClock ht, congrArg State.batchStepsDone hframe,
    congrArg State.batchNs hframe, hcfg, hlatch, hrun, hwaiting, hread, iteration_lock ht, by rw [hframe],
    by rw [hframe], congrArg State.programSealed hframe, htrace⟩

/-! ### Cells that no operation stores to -/

/-- A bulk write stores to its range at most (rule R67). -/
theorem read_memWrite_outside {c : Config} {m m' : Memory} (h : m.wf) {addr : Addr} {vs : List Byte}
    (hw : memWrite c m addr vs = some m') {a : Nat} (ha : ¬ storesTo a (.writeBytes addr vs)) : m'.read a = m.read a := by
  rw [storesTo, ← window_eq_mod] at ha
  obtain rfl | ⟨-, -, -, rfl⟩ := memWrite_cases hw
  · rfl
  · exact Memory.read_writeList_outside h (by omega)

/-- An engine operation keeps the canonical form, and each cell it does not store to. -/
theorem memOp_read_other {s t : State} (hm : s.mem.wf) {op : MemOp} (h : s.memOp op = some t) :
    t.mem.wf ∧ ∀ a, ¬ storesTo a op → t.mem.read a = s.mem.read a := by
  cases op with
  | readByte a => cases h; exact ⟨hm, fun _ _ => rfl⟩
  | writeByte addr v =>
    cases h
    exact ⟨writeByteAt_wf hm _ _ _, fun a ha => read_writeByteAt_other hm (window_eq_mod addr ▸ ha) v⟩
  | readBytes a n =>
    obtain ⟨bytes, -, rfl⟩ := loadBytes_eq_some.1 h
    exact ⟨hm, fun _ _ => rfl⟩
  | writeBytes addr vs =>
    obtain ⟨m, hw, rfl⟩ := storeBytes_eq_some.1 h
    exact ⟨memWrite_wf hm hw, fun a => read_memWrite_outside hm hw⟩

theorem memOps_read_other {ops : List MemOp} {s t : State} (hm : s.mem.wf) (h : s.memOps ops = some t) {a : Nat}
    (ha : ∀ op ∈ ops, ¬ storesTo a op) : t.mem.read a = s.mem.read a := by
  induction ops generalizing s with
  | nil => cases h; rfl
  | cons op ops ih =>
    obtain ⟨hop, hops⟩ := List.forall_mem_cons.1 ha
    unfold State.memOps at h
    split at h
    · rename_i u hu
      obtain ⟨hwf, hread⟩ := memOp_read_other hm hu
      rw [ih hwf h hops, hread a hop]
    · cases h

/-! ### The shift register and the sound latches -/

/-- Rule R171: what serving a request may leave changed of the state behind the output ports. -/
structure PortFrame (c : Config) (q : IORequest) (s t : State) : Prop where
  srReg_eq : (∀ b, q ≠ .output c.portOutShiftData b) → t.srReg = s.srReg
  srAmount_eq : (∀ b, q ≠ .output c.portOutShiftAmount b) → t.srAmount = s.srAmount
  prevA_eq : (∀ b, q ≠ .output c.portOutSoundA b) → t.prevA = s.prevA
  prevB_eq : (∀ b, q ≠ .output c.portOutSoundB b) → t.prevB = s.prevB

/-- Rule R94 read backwards, whether or not the ports are distinct: each of the four writers is selected by its own port. -/
theorem outInstr_of_other_port {c : Config} {p : Port} (b : Byte) :
    (p ≠ c.portOutShiftData → fedByte (outInstr c p b) = none) ∧
    (p ≠ c.portOutShiftAmount → amountByte (outInstr c p b) = none) ∧
    (p ≠ c.portOutSoundA → ∀ b', outInstr c p b ≠ .outSoundBankA b') ∧
    (p ≠ c.portOutSoundB → ∀ b', outInstr c p b ≠ .outSoundBankB b') := by
  unfold outInstr selectOut
  -- one case for each port that `p` may be the first to equal, and one for none: the operation is then known
  split_ifs <;> simp_all [fedByte, amountByte]

theorem isScheduler_outInstr (c : Config) (p : Port) (b : Byte) : isScheduler (outInstr c p b) = false := by
  unfold outInstr
  cases selectOut c p <;> rfl

theorem dispatch_portFrame (s : State) (q : IORequest) : PortFrame s.cfg q s (s.dispatch q) := by
  cases q with
  | idle | input _ => exact ⟨fun _ => rfl, fun _ => rfl, fun _ => rfl, fun _ => rfl⟩
  | output p b =>
    have hp {port : Port} (h : ∀ b', IORequest.output p b ≠ .output port b') : p ≠ port := fun he => h b (he ▸ rfl)
    obtain ⟨hfed, hamount, hbankA, hbankB⟩ := outInstr_of_other_port (c := s.cfg) (p := p) b
    obtain ⟨hreg, hset, hprevA, hprevB⟩ :=
      shiftAndSoundStateHaveOneWriterEach _ _ _ (isScheduler_outInstr s.cfg p b) (exec_outInstr s p b)
    exact ⟨fun h => hreg (hfed (hp h)), fun h => hset (hamount (hp h)), fun h => hprevA (hbankA (hp h)),
      fun h => hprevB (hbankB (hp h))⟩

/-- The dispatcher is the only part of an iteration that writes the state behind the output ports. -/
theorem iteration_portFrame {s t : State} {x : EngineAnswer} (h : s.iteration x = some t) :
    PortFrame s.cfg x.request s t := by
  unfold State.iteration at h
  split at h <;> cases h
  rename_i v hv
  obtain ⟨os, hframe, -⟩ := memOps_frame hv
  obtain ⟨hreg, hamount, hprevA, hprevB⟩ := dispatch_portFrame (v.advanceClock x.cycles) x.request
  rw [State.afterStep, frameEvent_frame]
  rw [hframe] at hreg hamount hprevA hprevB ⊢
  exact ⟨hreg, hamount, hprevA, hprevB⟩

/-- Settles O31: memory changes by the engine's operations alone, the ports' state by the dispatcher alone. -/
theorem iterationFrame : Obligations.IterationFrame := by
  intro s t x hm h
  have ht : s.iteration x = some t := orCrossing_eq_next.1 h
  obtain ⟨hreg, hamount, hprevA, hprevB⟩ := iteration_portFrame ht
  refine ⟨fun a ha => ?_, hreg, hamount, hprevA, hprevB, iteration_lock ht, ?_⟩
  · unfold State.iteration at ht
    split at ht <;> cases ht
    rename_i v hv
    rw [afterStep_mem]
    exact memOps_read_other (s := s.seal) hm hv ha
  · rw [iteration_frame ht]

/-! ### The frame event of an iteration -/

/-- Outputs that are no interrupt, no publish, written or skipped, and no redraw request. -/
structure Quiet (os : List Output) : Prop where
  no_interrupt : interruptVectors os = []
  no_redraw : redraws os = 0
  no_publish : noPublish os

/-- What the engine's operations and the dispatcher put out is none of a frame event's outputs. -/
theorem quiet_of_engine {os : List Output}
    (h : ∀ o ∈ os, (∃ bs, o = .memBytes bs) ∨ (∃ e, o = .sound e) ∨ ∃ b, o = .writeInput b) : Quiet os where
  no_interrupt := by
    refine List.filterMap_eq_nil_iff.2 fun o ho => ?_
    obtain ⟨bs, rfl⟩ | ⟨e, rfl⟩ | ⟨b, rfl⟩ := h o ho <;> rfl
  no_redraw := by
    refine List.count_eq_zero.2 fun hr => ?_
    simpa using h _ hr
  no_publish o ho := by
    obtain ⟨bs, rfl⟩ | ⟨e, rfl⟩ | ⟨b, rfl⟩ := h o ho <;> simp

/-- The state `u` of an iteration from `s` before its frame event, with the outputs `os` so far (rules R201 to R203). -/
structure BeforeEvent (s : State) (x : EngineAnswer) (os : List Output) (u : State) : Prop where
  cfg_eq : u.cfg = s.cfg
  clock_eq : u.emuClock = clockAdd s.cfg s.emuClock (stepNs s.cfg x.cycles)
  screen_eq : u.nextScreen = s.nextScreen
  display_eq : u.nextDisplay = s.nextDisplay
  mirror_eq : u.mirror = s.mirror
  lock_eq : u.lock = s.lock
  trace_eq : u.trace = s.trace ++ os
  quiet : Quiet os

/-- Rules R201, R207: an iteration ends in the frame event that its clock and the marks before it select. -/
theorem iteration_event {s t : State} {x : EngineAnswer} (h : s.iteration x = some t) :
    ∃ u os, BeforeEvent s x os u ∧
      ((s.nextDisplay ≤ t.emuClock ∧ t = u.endOfFrame) ∨
        (t.emuClock < s.nextDisplay ∧ s.nextScreen ≤ t.emuClock ∧ t = u.midFrame) ∨
        (t.emuClock < s.nextDisplay ∧ t.emuClock < s.nextScreen ∧ t = u)) := by
  obtain ⟨u, os, ht, hu, hos⟩ := iteration_cases h
  have hbefore : BeforeEvent s x os u := by
    rw [hu]; exact ⟨rfl, rfl, rfl, rfl, rfl, rfl, rfl, quiet_of_engine hos⟩
  have hcases := frameEvent_cases u
  rw [← ht, hbefore.display_eq, hbefore.screen_eq, hbefore.clock_eq, ← iteration_emuClock h] at hcases
  exact ⟨u, os, hbefore, hcases⟩

/-- What the end-of-frame event does to memory, the clock and the marks (rule R204). -/
theorem endOfFrame_kept (s : State) : s.endOfFrame.mem = s.mem ∧ s.endOfFrame.emuClock = s.emuClock ∧
    s.endOfFrame.nextDisplay = clockAdd s.cfg s.nextDisplay s.cfg.framePeriodNs ∧ s.endOfFrame.nextScreen = s.nextScreen := by
  obtain ⟨-, e⟩ | ⟨-, e⟩ | ⟨g, -, e⟩ := endOfFrame_cases s <;> rw [e] <;> exact ⟨rfl, rfl, rfl, rfl⟩

/-- What the end-of-frame event does to the mirror, its lock and the outputs, by what holds the lock (rules R204, R231). -/
theorem endOfFrame_publish (s : State) :
    (s.lock = .free ∧ s.endOfFrame.mirror = s.convertFrame ∧ s.endOfFrame.lock = .free ∧ s.endOfFrame.trace =
      s.trace ++ [.interrupt s.cfg.vecEof s.emuClock, .published s.convertFrame, .redraw]) ∨
    (s.lock = .heldByReader ∧ s.endOfFrame.mirror = s.mirror ∧ s.endOfFrame.lock = .heldByReader ∧ s.endOfFrame.trace =
      s.trace ++ [.interrupt s.cfg.vecEof s.emuClock, .publishSkipped, .redraw]) ∨
    (∃ g, s.lock = .heldByWriter g ∧ s.endOfFrame.mirror = s.convertFrame ∧ s.endOfFrame.lock = .free ∧ s.endOfFrame.trace =
      s.trace ++ [.interrupt s.cfg.vecEof s.emuClock, .published g, .published s.convertFrame, .redraw]) := by
  obtain ⟨hl, e⟩ | ⟨hl, e⟩ | ⟨g, hl, e⟩ := endOfFrame_cases s <;> rw [e]
  · exact .inl ⟨hl, rfl, hl, rfl⟩
  · exact .inr (.inl ⟨hl, rfl, hl, rfl⟩)
  · exact .inr (.inr ⟨g, hl, rfl, rfl, rfl⟩)

/-- Settles O32: the end-of-frame event of the state that the dispatch leaves, by what holds the lock. -/
theorem endOfFrameEventInOrder : Obligations.EndOfFrameEventInOrder := by
  intro s t x h hreached f
  have ht : s.iteration x = some t := orCrossing_eq_next.1 h
  obtain ⟨u, os, hu, he⟩ := iteration_event ht
  have hclock : t.emuClock = (s.emuClock + x.cycles * s.cfg.nsPerCycle) % 2 ^ s.cfg.clockBits := iteration_emuClock ht
  rw [← hclock] at hreached
  have hevent : t = u.endOfFrame := by
    obtain ⟨-, e⟩ | ⟨hnot, -⟩ | ⟨hnot, -⟩ := he
    · exact e
    · omega
    · omega
  obtain ⟨hmem, htime, hdisplay, hscreen⟩ := endOfFrame_kept u
  rw [← hevent] at hmem htime hdisplay hscreen
  obtain ⟨hcfg, -, hscr, hdis, hmirror, hlock, htrace, hinterrupt, hredraw, hpublish⟩ := hu
  have hf : u.convertFrame = f := by
    show convertVideo u.cfg (fun i => u.mem.read (u.cfg.videoBase + i)) = _
    rw [hcfg, ← hmem]
  rw [hdis, hcfg] at hdisplay
  refine ⟨os, hinterrupt, hredraw, hpublish, hdisplay, hscreen.trans hscr, ?_⟩
  have hends := endOfFrame_publish u
  rw [hf, hlock, hmirror, htrace, hcfg, ← htime, ← hevent] at hends
  obtain ⟨hl, e⟩ | ⟨hl, e⟩ | ⟨g, hl, e⟩ := hends <;> rw [hl]
  · exact ⟨fun _ => e, nofun, nofun⟩
  · exact ⟨nofun, fun _ => e, nofun⟩
  · exact ⟨nofun, nofun, fun g' hg => by cases hg; exact e⟩

/-- Settles O33: the mid-frame event writes its mark and puts out its interrupt. -/
theorem midFrameEventRaisesItsInterrupt : Obligations.MidFrameEventRaisesItsInterrupt := by
  intro s t x h clock hdisplay hscreen
  have ht : s.iteration x = some t := orCrossing_eq_next.1 h
  have hclock : t.emuClock = clock := iteration_emuClock ht
  rw [← hclock] at hdisplay hscreen
  obtain ⟨u, os, hu, ⟨hreached, -⟩ | ⟨-, -, rfl⟩ | ⟨-, hnot, -⟩⟩ := iteration_event ht
  · omega
  · obtain ⟨hcfg, -, hscr, hdis, hmirror, hlock, htrace, hinterrupt, hredraw, hpublish⟩ := hu
    refine ⟨?_, hdis, hmirror, hlock, os, hinterrupt, hredraw, hpublish, ?_⟩
    · rw [midFrame_eq, hscr, hcfg]; rfl
    · rw [midFrame_eq, htrace, hcfg]
  · omega

/-- Settles O34: with no mark reached there is no frame event. -/
theorem noMarkReachedRaisesNothing : Obligations.NoMarkReachedRaisesNothing := by
  intro s t x h clock hdisplay hscreen
  have ht : s.iteration x = some t := orCrossing_eq_next.1 h
  have hclock : t.emuClock = clock := iteration_emuClock ht
  rw [← hclock] at hdisplay hscreen
  obtain ⟨u, os, hu, ⟨hreached, -⟩ | ⟨-, hreached, -⟩ | ⟨-, -, rfl⟩⟩ := iteration_event ht
  · omega
  · omega
  · exact ⟨hu.screen_eq, hu.display_eq, hu.mirror_eq, hu.lock_eq, os, hu.quiet.no_interrupt, hu.quiet.no_redraw,
      hu.quiet.no_publish, hu.trace_eq⟩

end Sys2Proof.Machine
end

section
/-! PROOFS. The scheduler's loop (44_scheduler.md, sections 3 and 4): a batch is its iterations and does not depend on the run flag,
and with short steps the two frame events alternate as the cadence law says. -/

namespace Sys2Proof.Machine

/-! ### A batch is its iterations -/

theorem iterations_cons (s : State) (x : EngineAnswer) (xs : List EngineAnswer) :
    s.iterations (x :: xs) = (s.iteration x).bind (·.iterations xs) := by
  rw [State.iterations]
  cases s.iteration x <;> rfl

theorem iterations_cons_eq_some {s t : State} {x : EngineAnswer} {xs : List EngineAnswer} :
    s.iterations (x :: xs) = some t ↔ ∃ u, s.iteration x = some u ∧ u.iterations xs = some t := by
  rw [iterations_cons, Option.bind_eq_some_iff]

/-- Rule R213: iterations performed one after another stop at the first one that is refused. -/
theorem runOps_schedIterations (xs : List EngineAnswer) (s : State) :
    runOps (xs.map .schedIteration) s = orCrossing (s.iterations xs) := by
  induction xs generalizing s with
  | nil => rfl
  | cons x xs ih =>
    have hexec : exec (.schedIteration x) s = orCrossing (s.iteration x) := rfl
    rw [List.map_cons, runOps, hexec, iterations_cons]
    cases s.iteration x with
    | none => rfl
    | some u => exact ih u

theorem iterations_of_defined {xs : List EngineAnswer} {s : State} (hc : s.cfg.RegionsOk)
    (h : ∀ x ∈ xs, ∀ op ∈ x.memOps, opDefined s.cfg op) : ∃ t, s.iterations xs = some t := by
  induction xs generalizing s with
  | nil => exact ⟨s, rfl⟩
  | cons x xs ih =>
    obtain ⟨hx, hxs⟩ := List.forall_mem_cons.1 h
    obtain ⟨u, hu⟩ := iteration_of_defined hc hx
    rw [← (iteration_extends hu).cfg_eq] at hc hxs
    obtain ⟨t, ht⟩ := ih hc hxs
    exact ⟨t, iterations_cons_eq_some.2 ⟨u, hu, ht⟩⟩

@[simp] theorem totalNs_nil (c : Config) : totalNs c [] = 0 := rfl

@[simp] theorem totalNs_cons (c : Config) (x : EngineAnswer) (xs : List EngineAnswer) :
    totalNs c (x :: xs) = stepNs c x.cycles + totalNs c xs := by
  simp [totalNs]

/-- Rules R39, R213: the pacing counters count the iterations and their time. -/
theorem iterations_counters {xs : List EngineAnswer} {s t : State} (h : s.iterations xs = some t) :
    t.batchStepsDone = s.batchStepsDone + xs.length ∧ t.batchNs = s.batchNs + totalNs s.cfg xs := by
  induction xs generalizing s with
  | nil => cases h; exact ⟨rfl, rfl⟩
  | cons x xs ih =>
    obtain ⟨u, hu, ht⟩ := iterations_cons_eq_some.1 h
    obtain ⟨hsteps, hns⟩ := ih ht
    have husteps : u.batchStepsDone = s.batchStepsDone + 1 := congrArg State.batchStepsDone (iteration_frame hu)
    have huns : u.batchNs = s.batchNs + stepNs s.cfg x.cycles := congrArg State.batchNs (iteration_frame hu)
    rw [hsteps, hns, husteps, huns, (iteration_extends hu).cfg_eq, List.length_cons, totalNs_cons]
    exact ⟨by omega, by omega⟩

/-! ### The run flag makes no difference to an iteration -/

section
variable (s : State) (r : Bool)

theorem memOp_setRun (op : MemOp) : (s.setRun r).memOp op = (s.memOp op).map (·.setRun r) := by
  cases op with
  | readByte a | writeByte a v => rfl
  | readBytes a n =>
    simp only [State.memOp, State.loadBytes, State.setRun_cfg, State.setRun_mem]
    cases memRead s.cfg s.mem a n <;> rfl
  | writeBytes a vs =>
    simp only [State.memOp, State.storeBytes, State.setRun_cfg, State.setRun_mem]
    cases memWrite s.cfg s.mem a vs <;> rfl

theorem memOps_setRun (ops : List MemOp) : (s.setRun r).memOps ops = (s.memOps ops).map (·.setRun r) := by
  induction ops generalizing s with
  | nil => rfl
  | cons op ops ih =>
    simp only [State.memOps, memOp_setRun]
    cases s.memOp op with
    | none => rfl
    | some t => exact ih t

theorem dispatch_setRun (q : IORequest) : (s.setRun r).dispatch q = (s.dispatch q).setRun r := by
  cases q with
  | idle => rfl
  | input p =>
    simp only [State.dispatch, State.inputValue, State.setRun_cfg]
    cases selectIn s.cfg p <;> rfl
  | output p b =>
    simp only [State.dispatch, State.output, State.setRun_cfg]
    cases selectOut s.cfg p <;> rfl

theorem publishFrame_setRun (f : Frame) : (s.setRun r).publishFrame f = (s.publishFrame f).setRun r := by
  cases hl : s.lock with
  | free => rw [publishFrame_free hl, publishFrame_free (s := s.setRun r) hl]; rfl
  | heldByReader => rw [publishFrame_reader hl, publishFrame_reader (s := s.setRun r) hl]; rfl
  | heldByWriter g => rw [publishFrame_writer hl, publishFrame_writer (s := s.setRun r) hl]; rfl

theorem endOfFrame_setRun : (s.setRun r).endOfFrame = s.endOfFrame.setRun r :=
  congrArg (·.emit [.redraw]) (publishFrame_setRun ((s.setDisplayMark (clockAdd s.cfg s.nextDisplay
    s.cfg.framePeriodNs)).raiseInterrupt s.cfg.vecEof) r s.convertFrame)

theorem frameEvent_setRun : (s.setRun r).frameEvent = s.frameEvent.setRun r := by
  rw [State.frameEvent, State.frameEvent, apply_ite (State.setRun · r), apply_ite (State.setRun · r), endOfFrame_setRun]
  rfl

theorem iteration_setRun (x : EngineAnswer) : (s.setRun r).iteration x = (s.iteration x).map (·.setRun r) := by
  have hops : (s.setRun r).seal.memOps x.memOps = _ := memOps_setRun s.seal r x.memOps
  simp only [State.iteration, hops]
  cases s.seal.memOps x.memOps with
  | none => rfl
  | some v =>
    have hdispatch := dispatch_setRun (v.advanceClock x.cycles) r x.request
    exact congrArg some ((congrArg State.frameEvent hdispatch).trans (frameEvent_setRun _ r))

/-- Rule R213: the flag is not read in a batch. -/
theorem iterations_setRun (xs : List EngineAnswer) : (s.setRun r).iterations xs = (s.iterations xs).map (·.setRun r) := by
  induction xs generalizing s with
  | nil => rfl
  | cons x xs ih =>
    rw [iterations_cons, iterations_cons, iteration_setRun]
    cases s.iteration x with
    | none => rfl
    | some u => exact ih u

end

/-- Settles O38: the batch runs the iterations from cleared counters, which count, and commutes with a change of the flag. -/
theorem batchIsItsIterations : Obligations.BatchIsItsIterations := by
  intro s xs
  refine ⟨(runOps_schedIterations xs (s.setBatch 0 0)).symm, fun hc hx => ?_⟩
  obtain ⟨t, ht⟩ := iterations_of_defined (s := s.setBatch 0 0) hc hx
  obtain ⟨hsteps, hns⟩ := iterations_counters ht
  have hflag : ((s.setBatch 0 0).setRun (!s.run)).iterations xs = some (t.setRun (!s.run)) := by
    rw [iterations_setRun, ht]; rfl
  exact ⟨t, orCrossing_eq_next.2 ht, hsteps.trans (Nat.zero_add _), hns.trans (Nat.zero_add _),
    (iterations_keepsPresentation ht).run_eq, orCrossing_eq_next.2 hflag⟩

/-! ### One iteration in phase -/

@[simp] theorem interruptVectors_append (os os' : List Output) :
    interruptVectors (os ++ os') = interruptVectors os ++ interruptVectors os' := List.filterMap_append

/-- What an iteration does to the marks and which interrupt it raises (rules R201, R204, R206, R207). -/
theorem iteration_marks {s t : State} {x : EngineAnswer} (h : s.iteration x = some t) :
    (s.nextDisplay ≤ t.emuClock ∧ t.nextDisplay = clockAdd s.cfg s.nextDisplay s.cfg.framePeriodNs ∧
      t.nextScreen = s.nextScreen ∧ interruptVectors t.trace = interruptVectors s.trace ++ [s.cfg.vecEof]) ∨
    (t.emuClock < s.nextDisplay ∧ s.nextScreen ≤ t.emuClock ∧ t.nextDisplay = s.nextDisplay ∧
      t.nextScreen = clockAdd s.cfg s.nextScreen s.cfg.framePeriodNs ∧
      interruptVectors t.trace = interruptVectors s.trace ++ [s.cfg.vecMid]) ∨
    (t.emuClock < s.nextDisplay ∧ t.emuClock < s.nextScreen ∧ t.nextDisplay = s.nextDisplay ∧
      t.nextScreen = s.nextScreen ∧ interruptVectors t.trace = interruptVectors s.trace) := by
  obtain ⟨u, os, hu, he⟩ := iteration_event h
  have hvectors : interruptVectors u.trace = interruptVectors s.trace := by
    simp [hu.trace_eq, hu.quiet.no_interrupt]
  obtain ⟨hdue, rfl⟩ | ⟨hahead, hdue, rfl⟩ | ⟨hahead, hahead', rfl⟩ := he
  · obtain ⟨-, -, hdisplay, hscreen⟩ := endOfFrame_kept u
    rw [hu.cfg_eq, hu.display_eq] at hdisplay
    refine .inl ⟨hdue, hdisplay, hscreen.trans hu.screen_eq, ?_⟩
    rw [← hvectors, ← hu.cfg_eq]
    obtain ⟨-, -, -, e⟩ | ⟨-, -, -, e⟩ | ⟨g, -, -, -, e⟩ := endOfFrame_publish u <;>
      rw [e, interruptVectors_append] <;> rfl
  · refine .inr (.inl ⟨hahead, hdue, hu.display_eq, ?_, ?_⟩)
    · rw [midFrame_eq, hu.cfg_eq, hu.screen_eq]
    · rw [midFrame_eq, interruptVectors_append, hvectors, hu.cfg_eq]; rfl
  · exact .inr (.inr ⟨hahead, hahead', hu.display_eq, hu.screen_eq, hvectors⟩)

/-- Rule R208: `k` end-of-frame events and `j` mid-frame events lie behind the clock, each mark at the next event of its kind. -/
structure InPhase (s : State) (k j : Nat) : Prop where
  display_eq : s.nextDisplay = (k + 1) * s.cfg.framePeriodNs
  screen_eq : s.nextScreen + s.cfg.midOffsetNs = (j + 1) * s.cfg.framePeriodNs
  display_behind : k * s.cfg.framePeriodNs ≤ s.emuClock
  display_ahead : s.emuClock < s.nextDisplay
  screen_behind : j * s.cfg.framePeriodNs ≤ s.emuClock + s.cfg.midOffsetNs
  screen_ahead : s.emuClock < s.nextScreen
  alternate : j = k ∨ j = k + 1

theorem clockAdd_of_lt {c : Config} {n d : Nat} (h : n + d < 2 ^ c.clockBits) : clockAdd c n d = n + d := Nat.mod_eq_of_lt h

section
variable {s t : State} {x : EngineAnswer} {k j : Nat} (hs : InPhase s k j) (hoffset : s.cfg.midOffsetNs < s.cfg.framePeriodNs)
  (hshort : stepNs s.cfg x.cycles ≤ s.cfg.midOffsetNs)
  (hshort' : stepNs s.cfg x.cycles ≤ s.cfg.framePeriodNs - s.cfg.midOffsetNs)
  (hwrap : s.emuClock + stepNs s.cfg x.cycles + s.cfg.framePeriodNs < 2 ^ s.cfg.clockBits) (h : s.iteration x = some t)
include hs hoffset hshort hshort' hwrap h

/-- Rules R208, R209(c): a short step from a state in phase reaches the mark whose event is next in turn or none, and its iteration
leaves a state in phase. -/
theorem InPhase.iteration :
    (s.nextDisplay ≤ t.emuClock ∧ t.emuClock < s.nextScreen ∧ j = k + 1 ∧ InPhase t (k + 1) j ∧
      interruptVectors t.trace = interruptVectors s.trace ++ [s.cfg.vecEof]) ∨
    (t.emuClock < s.nextDisplay ∧ s.nextScreen ≤ t.emuClock ∧ j = k ∧ InPhase t k (j + 1) ∧
      interruptVectors t.trace = interruptVectors s.trace ++ [s.cfg.vecMid]) ∨
    (t.emuClock < s.nextDisplay ∧ t.emuClock < s.nextScreen ∧ InPhase t k j ∧
      interruptVectors t.trace = interruptVectors s.trace) := by
  have hcfg := (iteration_extends h).cfg_eq
  have hclock : t.emuClock = s.emuClock + stepNs s.cfg x.cycles := by
    rw [iteration_emuClock h, clockAdd_of_lt (by omega)]
  have hmarks := iteration_marks h
  obtain ⟨hdisplay, hscreen, hbehind, hahead, hbehind', hahead', halt⟩ := hs
  have hkept : k * t.cfg.framePeriodNs ≤ t.emuClock ∧ j * t.cfg.framePeriodNs ≤ t.emuClock + t.cfg.midOffsetNs := by
    rw [hcfg]; omega
  obtain rfl | rfl := halt
  · have hnext : s.nextScreen + s.cfg.midOffsetNs = s.nextDisplay := hscreen.trans hdisplay.symm
    obtain ⟨hdue, -⟩ | ⟨-, hdue, hd, hsc, hv⟩ | ⟨hlt, hlt', hd, hsc, hv⟩ := hmarks
    · omega
    · rw [clockAdd_of_lt (by omega)] at hsc
      refine .inr (.inl ⟨by omega, hdue, rfl, ⟨?_, ?_, hkept.1, by omega, ?_, by omega, .inr rfl⟩, hv⟩)
      · rw [hd, hcfg, hdisplay]
      · rw [hsc, hcfg, Nat.add_one_mul, ← hscreen]; omega
      · rw [hcfg, ← hscreen]; omega
    · refine .inr (.inr ⟨hlt, hlt', ⟨?_, ?_, hkept.1, by omega, hkept.2, by omega, .inl rfl⟩, hv⟩)
      · rw [hd, hcfg, hdisplay]
      · rw [hsc, hcfg, hscreen]
  · have hnext : s.nextScreen + s.cfg.midOffsetNs = s.nextDisplay + s.cfg.framePeriodNs := by
      rw [hscreen, hdisplay, Nat.add_one_mul (k + 1)]
    rw [← hdisplay] at hbehind'
    obtain ⟨hdue, hd, hsc, hv⟩ | ⟨-, hdue, -⟩ | ⟨hlt, hlt', hd, hsc, hv⟩ := hmarks
    · rw [clockAdd_of_lt (by omega)] at hd
      refine .inl ⟨hdue, by omega, rfl, ⟨?_, ?_, ?_, by omega, hkept.2, by omega, .inl rfl⟩, hv⟩
      · rw [hd, hcfg, Nat.add_one_mul (k + 1), ← hdisplay]
      · rw [hsc, hcfg, hscreen]
      · rw [hcfg, ← hdisplay]; exact hdue
    · omega
    · refine .inr (.inr ⟨hlt, hlt', ⟨?_, ?_, hkept.1, by omega, hkept.2, by omega, .inr rfl⟩, hv⟩)
      · rw [hd, hcfg, hdisplay]
      · rw [hsc, hcfg, hscreen]

end

/-- Rule R208: where the mid-frame mark stands. -/
theorem InPhase.nextScreen_eq {s : State} {k j : Nat} (h : InPhase s k j) :
    s.nextScreen = (j + 1) * s.cfg.framePeriodNs - s.cfg.midOffsetNs := Nat.eq_sub_of_add_eq h.screen_eq

/-- Settles O39: the premises put the state in phase, as many events of each kind behind it or one mid-frame event more. -/
theorem inPhaseIterationKeepsMarksAhead : Obligations.InPhaseIterationKeepsMarksAhead := by
  intro s t x k
  dsimp only
  intro hpos hoffset hshort hshort' hwrap hahead hahead' hdisplay hscreen hbehind hlate h
  have ht : s.iteration x = some t := orCrossing_eq_next.1 h
  have hnext : (k + 1) * s.cfg.framePeriodNs = k * s.cfg.framePeriodNs + s.cfg.framePeriodNs := Nat.add_one_mul _ _
  have hnext' : (k + 2) * s.cfg.framePeriodNs = (k + 1) * s.cfg.framePeriodNs + s.cfg.framePeriodNs :=
    Nat.add_one_mul _ _
  obtain ⟨j, hphase⟩ : ∃ j, InPhase s k j := by
    obtain he | he := hscreen
    · exact ⟨k, hdisplay, by omega, hbehind, hahead, by omega, hahead', .inl rfl⟩
    · have hmid := hlate he
      exact ⟨k + 1, hdisplay, (congrArg (· + _) he).trans (Nat.sub_add_cancel (by omega)), hbehind, hahead,
        by omega, hahead', .inr rfl⟩
  have hcfg := (iteration_extends ht).cfg_eq
  have hclock : t.emuClock = s.emuClock + x.cycles * s.cfg.nsPerCycle :=
    (iteration_emuClock ht).trans (clockAdd_of_lt (lt_of_le_of_lt (Nat.le_add_right _ _) hwrap))
  obtain ⟨hdue, hlt, rfl, hp, -⟩ | ⟨hlt, hdue, rfl, hp, -⟩ | ⟨hlt, hlt', hp, -⟩ :=
    hphase.iteration hoffset hshort hshort' hwrap ht
  · have hd := hp.display_eq
    have hsc := hp.nextScreen_eq
    rw [hcfg] at hd hsc
    exact ⟨hp.display_ahead, hp.screen_ahead, fun _ => ⟨hd, hsc, by omega⟩, by omega, by omega⟩
  · have hd := hp.display_eq
    have hsc := hp.nextScreen_eq
    rw [hcfg] at hd hsc
    exact ⟨hp.display_ahead, hp.screen_ahead, by omega, fun _ => ⟨hd, hsc, by omega⟩, by omega⟩
  · exact ⟨hp.display_ahead, hp.screen_ahead, by omega, by omega, by omega⟩

/-! ### The cadence law -/

/-- The vector of event `n` after reset, the first being number 0 (rule R208). -/
def eventVector (c : Config) (n : Nat) : Nat := if n % 2 = 0 then c.vecMid else c.vecEof

theorem eventVector_even (c : Config) (k : Nat) : eventVector c (k + k) = c.vecMid := if_pos (by omega)

theorem eventVector_odd (c : Config) (k : Nat) : eventVector c (k + (k + 1)) = c.vecEof := if_neg (by omega)

theorem events_succ (c : Config) (n : Nat) :
    (List.range (n + 1)).map (eventVector c) = (List.range n).map (eventVector c) ++ [eventVector c n] := by
  rw [List.range_succ, List.map_append, List.map_singleton]

/-- With distinct vectors half of the first `n` events are end-of-frame ones; the odd one of an odd number is mid-frame. -/
theorem count_events {c : Config} (hne : c.vecMid ≠ c.vecEof) (n : Nat) :
    ((List.range n).map (eventVector c)).count c.vecEof = n / 2 ∧
    ((List.range n).map (eventVector c)).count c.vecMid = (n + 1) / 2 := by
  induction n with
  | zero => exact ⟨rfl, rfl⟩
  | succ n ih =>
    obtain ⟨heof, hmid⟩ := ih
    rw [events_succ, List.count_append, List.count_append, heof, hmid]
    by_cases hn : n % 2 = 0
    · rw [eventVector, if_pos hn, List.count_singleton_self, List.count_singleton, if_neg (by simpa using hne)]
      omega
    · rw [eventVector, if_neg hn, List.count_singleton_self, List.count_singleton, if_neg (by simpa using hne.symm)]
      omega

/-- Rule R209(a): in phase, and the interrupts raised are those of the events behind the clock, in turn. -/
def InCadence (s : State) (k j : Nat) : Prop :=
  InPhase s k j ∧ interruptVectors s.trace = (List.range (k + j)).map (eventVector s.cfg)

theorem resetWith_inCadence {c : Config} (hc : c.TimeOk) (audio : Bool) : InCadence (State.resetWith c audio) 0 0 := by
  obtain ⟨⟨hpos, hoffset⟩, -⟩ := hc
  have hphase : InPhase (State.resetWith c audio) 0 0 :=
    ⟨by simp [State.resetWith], by simp [State.resetWith]; omega, by simp, by simp [State.resetWith]; omega, by simp,
      by simp [State.resetWith]; omega, .inl rfl⟩
  exact ⟨hphase, by cases audio <;> rfl⟩

/-- The premises of the cadence law for the rest of a run from `s`: steps short enough, and no wrap (rule R209). -/
structure ShortSteps (s : State) (xs : List EngineAnswer) : Prop where
  short : ∀ x ∈ xs,
    stepNs s.cfg x.cycles ≤ s.cfg.midOffsetNs ∧ stepNs s.cfg x.cycles ≤ s.cfg.framePeriodNs - s.cfg.midOffsetNs
  no_wrap : s.emuClock + totalNs s.cfg xs + s.cfg.framePeriodNs < 2 ^ s.cfg.clockBits

/-- One short step: the cadence is kept, and the premises for the rest of the run. -/
theorem InCadence.iteration {s t : State} {x : EngineAnswer} {xs : List EngineAnswer} {k j : Nat} (hs : InCadence s k j)
    (hoffset : s.cfg.midOffsetNs < s.cfg.framePeriodNs) (hx : ShortSteps s (x :: xs)) (h : s.iteration x = some t) :
    ∃ k' j', InCadence t k' j' := by
  obtain ⟨hphase, hvectors⟩ := hs
  obtain ⟨⟨hshort, hshort'⟩, -⟩ := List.forall_mem_cons.1 hx.short
  have hwrap := hx.no_wrap
  rw [totalNs_cons] at hwrap
  have hcfg := (iteration_extends h).cfg_eq
  obtain ⟨-, -, rfl, hp, hv⟩ | ⟨-, -, rfl, hp, hv⟩ | ⟨-, -, hp, hv⟩ :=
    hphase.iteration hoffset hshort hshort' (by omega) h
  · refine ⟨_, _, hp, ?_⟩
    rw [hv, hvectors, hcfg, show k + 1 + (k + 1) = k + (k + 1) + 1 by omega, events_succ, eventVector_odd]
  · exact ⟨_, _, hp, by rw [hv, hvectors, hcfg, ← Nat.add_assoc, events_succ, eventVector_even]⟩
  · exact ⟨_, _, hp, by rw [hv, hvectors, hcfg]⟩

theorem ShortSteps.iteration {s t : State} {x : EngineAnswer} {xs : List EngineAnswer} (hx : ShortSteps s (x :: xs))
    (h : s.iteration x = some t) : t.emuClock = s.emuClock + stepNs s.cfg x.cycles ∧ ShortSteps t xs := by
  obtain ⟨-, hrest⟩ := List.forall_mem_cons.1 hx.short
  have hwrap := hx.no_wrap
  rw [totalNs_cons] at hwrap
  have hclock : t.emuClock = s.emuClock + stepNs s.cfg x.cycles := by
    rw [iteration_emuClock h, clockAdd_of_lt (by omega)]
  have hcfg := (iteration_extends h).cfg_eq
  refine ⟨hclock, ?_, ?_⟩
  · rw [hcfg]; exact hrest
  · rw [hcfg, hclock]; omega

theorem InCadence.iterations {xs : List EngineAnswer} {s t : State} {k j : Nat} (hs : InCadence s k j)
    (hoffset : s.cfg.midOffsetNs < s.cfg.framePeriodNs) (hx : ShortSteps s xs) (h : s.iterations xs = some t) :
    t.emuClock = s.emuClock + totalNs s.cfg xs ∧ ∃ k' j', InCadence t k' j' := by
  induction xs generalizing s k j with
  | nil => cases h; exact ⟨rfl, k, j, hs⟩
  | cons x xs ih =>
    obtain ⟨u, hu, ht⟩ := iterations_cons_eq_some.1 h
    obtain ⟨k', j', hcadence⟩ := hs.iteration hoffset hx hu
    obtain ⟨hclock, hrest⟩ := hx.iteration hu
    have hcfg := (iteration_extends hu).cfg_eq
    obtain ⟨htime, hend⟩ := ih hcadence (hcfg ▸ hoffset) hrest ht
    rw [hcfg, hclock] at htime
    exact ⟨by rw [htime, totalNs_cons, Nat.add_assoc], hend⟩

/-- Rule R209(b): in phase the clock counts the events of each kind. -/
theorem InPhase.counts {s : State} {k j : Nat} (h : InPhase s k j) :
    s.emuClock / s.cfg.framePeriodNs = k ∧ (s.emuClock + s.cfg.midOffsetNs) / s.cfg.framePeriodNs = j := by
  refine ⟨Nat.div_eq_of_lt_le h.display_behind ?_, Nat.div_eq_of_lt_le h.screen_behind ?_⟩
  · rw [← h.display_eq]; exact h.display_ahead
  · rw [← h.screen_eq]; exact Nat.add_lt_add_right h.screen_ahead _

/-- Settles O40: the cadence holds at reset and every short step keeps it; its two numbers are the clock's quotients. -/
theorem interruptCadenceAlternates : Obligations.InterruptCadenceAlternates := by
  intro c audio xs t hc hshort hwrap h
  obtain ⟨-, -, -, -, htime, -⟩ := hc
  obtain ⟨⟨-, hoffset⟩, -, hne, -⟩ := id htime
  have ht : (State.resetWith c audio).iterations xs = some t := by
    rwa [runOps_schedIterations, orCrossing_eq_next] at h
  have hsteps : ShortSteps (State.resetWith c audio) xs := ⟨hshort, by simpa [State.resetWith] using hwrap⟩
  obtain ⟨hclock, k, j, hphase, hvectors⟩ := (resetWith_inCadence htime audio).iterations hoffset hsteps ht
  have hcfg : t.cfg = c := (iterations_extends ht).cfg_eq
  obtain ⟨hk, hj⟩ := hphase.counts
  rw [hcfg] at hk hj hvectors
  obtain ⟨heof, hmid⟩ := count_events hne (k + j)
  have halt := hphase.alternate
  rw [hk, hj, hvectors, heof, hmid]
  exact ⟨hclock.trans (Nat.zero_add _), rfl, by omega, by omega⟩

end Sys2Proof.Machine
end

section
/-! PROOFS. What a step does with the oldest request, and the emulation thread's own moves (44_scheduler.md, sections 1 and 4;
60_exceptions.md, sections 2 and 7; logs 1, 22 to 24 and 30). -/

namespace Sys2Proof.Machine

/-! ### The moves in plain terms -/

/-- The outer loop in plain arithmetic (rules R200, R213). -/
theorem atBatchBoundary_iff (s : State) :
    s.atBatchBoundary = true ↔ s.batchStepsDone = 0 ∨ s.cfg.batchSteps ≤ s.batchStepsDone := by
  simp [State.atBatchBoundary]

theorem insideBatch_iff (s : State) :
    s.atBatchBoundary = false ↔ 0 < s.batchStepsDone ∧ s.batchStepsDone < s.cfg.batchSteps := by
  rw [Bool.eq_false_iff, Ne, atBatchBoundary_iff]
  omega

theorem publishing_eq_false_iff (s : State) : s.publishing = false ↔ ∀ g, s.lock ≠ .heldByWriter g := by
  rw [Bool.eq_false_iff, Ne, publishing_iff, not_exists]

theorem beginBatch_outerLoop {s : State} (h : s.atBatchBoundary = true) : s.beginBatch = s.setBatch 0 0 := if_pos h

theorem beginBatch_insideBatch {s : State} (h : s.atBatchBoundary = false) : s.beginBatch = s := if_neg (by simp [h])

/-- At its outer loop the thread's own iteration starts from cleared counters (rule R213). -/
theorem ownIteration_outerLoop {s : State} (h : s.atBatchBoundary = true) : s.ownIteration =
    exec (.schedIteration (Config.freeEngineAnswer s.freeCount)) (s.draw.setBatch 0 0) := by
  rw [State.ownIteration, beginBatch_outerLoop (s := s.draw) h]
  rfl

/-- Inside a batch the thread's own iteration is the next one (rule R201). -/
theorem ownIteration_insideBatch {s : State} (h : s.atBatchBoundary = false) : s.ownIteration =
    exec (.schedIteration (Config.freeEngineAnswer s.freeCount)) s.draw := by
  rw [State.ownIteration, beginBatch_insideBatch (s := s.draw) h]
  rfl

/-- Inside a batch, or with the run flag set, the emulation thread exists (rule R215). -/
theorem emulationEnded_eq_false_iff (s : State) : s.emulationEnded = false ↔ s.run = true ∨ s.atBatchBoundary = false := by
  cases hrun : s.run <;> simp [State.emulationEnded, hrun]

/-- The readied state of an emulation thread's operation: the store closed, and cleared counters for an iteration that begins a
batch (logs 17, 30). -/
theorem ready_emulation {i : Instr} (ha : agentOf i = .emulation) (s : State) : s.ready i = { s with
    programSealed := true
    batchStepsDone := if isIteration i = true ∧ (s.batchStepsDone = 0 ∨ s.cfg.batchSteps ≤ s.batchStepsDone) then 0
      else s.batchStepsDone
    batchNs := if isIteration i = true ∧ (s.batchStepsDone = 0 ∨ s.cfg.batchSteps ≤ s.batchStepsDone) then 0
      else s.batchNs } := by
  simp only [State.ready, ha, ← atBatchBoundary_iff]
  cases hi : isIteration i with
  | false => rfl
  | true =>
    cases hb : s.atBatchBoundary with
    | false => rw [if_pos rfl, beginBatch_insideBatch hb]; rfl
    | true => rw [if_pos rfl, beginBatch_outerLoop hb]; rfl

/-! ### The thread's own move -/

theorem emulationMove_publishing {s : State} {f : Frame} (hl : s.lock = .heldByWriter f) :
    emulationMove s = .next { s with mirror := f, lock := .free, trace := s.trace ++ [.published f] } := by
  rw [emulationMove, if_pos ((publishing_iff s).2 ⟨f, hl⟩), writerFinish_writer hl]

theorem emulationMove_ended {s : State} (hp : s.publishing = false) (he : s.emulationEnded = true) :
    emulationMove s = .next s := by
  rw [emulationMove, if_neg (by simp [hp]), if_pos he]

theorem emulationMove_running {s : State} (hp : s.publishing = false) (he : s.emulationEnded = false) :
    emulationMove s = s.ownIteration := by
  rw [emulationMove, if_neg (by simp [hp]), if_neg (by simp [he])]

/-- With no request queued a step is the emulation thread's own move (rule R200). -/
theorem step_idle {s : State} (hq : s.requests = []) : step s = emulationMove s := by
  simp only [step, fetch, hq]

/-! ### The oldest request -/

section
variable {s : State} {r : Request} {rest : List Request} (hq : s.requests = r :: rest)
include hq

theorem step_undecodable {e : Reject} (hd : decode s.cfg r = .error e) : step s = .refused (.undecodable e) := by
  simp only [step, fetch, hq, hd]

variable {i : Instr} (hd : decode s.cfg r = .ok i)
include hd

theorem step_illFormed (hw : i.wf s.cfg = false) : step s = .refused .illFormed := by
  simp [step, fetch, hq, hd, hw]

variable (hw : i.wf s.cfg = true)
include hw

theorem fetch_wellFormed : fetch s = .ok (some (i, s.setRequests rest)) := by
  simp only [fetch, hq, hd, hw, if_true]

/-- What the thread of the operation has to do first is done first (rules R14, R290). -/
theorem step_unfinished {m : Result} (h : unfinished i s = some m) : step s = m := by
  simp only [step, fetch_wellFormed hq hd hw, turn, h]

/-- A request for an operation of a thread that does not exist leaves the queue (rules R215, R262; log 23). -/
theorem step_inert (h : unfinished i s = none) (hi : s.inert i = true) : step s = .next (s.setRequests rest) := by
  simp only [step, fetch_wellFormed hq hd hw, turn, h, hi, if_true]

/-- Otherwise the operation is performed, in the readied state. -/
theorem step_ready (h : unfinished i s = none) (hi : s.inert i = false) :
    step s = exec i ((s.setRequests rest).ready i) := by
  simp only [step, fetch_wellFormed hq hd hw, turn, h, hi, Bool.false_eq_true, if_false]

end

/-! ### What comes before an operation -/

section
variable {i : Instr} {s : State}

theorem unfinished_startUp (ha : agentOf i = .startUp) : unfinished i s = none := by
  rw [unfinished, ha]

/-- The presentation thread has nothing to do first where it is in no read and, for a read, the writer does not hold the lock. -/
theorem unfinished_presentation (ha : agentOf i = .presentation) (hread : isRead i = true → ∀ g, s.lock ≠ .heldByWriter g)
    (hother : isRead i = false → s.lock ≠ .heldByReader ∧ s.readerWaiting = false) : unfinished i s = none := by
  rw [unfinished, ha]
  cases hr : isRead i with
  | true =>
    cases hl : s.lock with
    | free => simp
    | heldByReader => rfl
    | heldByWriter g => exact absurd hl (hread hr g)
  | false =>
    obtain ⟨hnot, hwaiting⟩ := hother hr
    cases hl : s.lock with
    | free | heldByWriter g => simp [hwaiting]
    | heldByReader => exact absurd hl hnot

/-- A publish in progress is completed before another operation of its thread (rules R14, R231). -/
theorem unfinished_publishing (ha : agentOf i = .emulation) (hp : s.publishing = true) (hf : isFinish i = false) :
    unfinished i s = some (.next s.writerFinish) := by
  simp [unfinished, ha, hp, hf]

/-- An open batch is completed before a requested one (rule R213; log 30). -/
theorem unfinished_insideBatch (ha : agentOf i = .emulation) (hb : isBatch i = true) (hp : s.publishing = false)
    (hin : s.atBatchBoundary = false) :
    unfinished i s = some s.ownIteration := by
  simp [unfinished, ha, hb, hp, hin]

/-- Where no publish and, for a batch, no batch is open, the emulation thread has nothing to do first; nor has the second part of a
publish. -/
theorem unfinished_emulation (ha : agentOf i = .emulation) (hp : s.publishing = true → isFinish i = true)
    (hb : isBatch i = true → s.atBatchBoundary = true) : unfinished i s = none := by
  rw [unfinished, ha]
  dsimp only
  rw [if_neg (by simpa using hp), if_neg (by simpa using hb)]

theorem inert_of_agent (ha : agentOf i ≠ .emulation) : s.inert i = false := by
  simp [State.inert, ha]

end

/-- Settles O41: with no request a step is the thread's own move, and with one it is what the thread has to do first or, where the
thread does not exist, the request's removal. -/
theorem emulationThreadReadsRunFlagAtBatchBoundary : Obligations.EmulationThreadReadsRunFlagAtBatchBoundary := by
  intro s
  dsimp only
  rw [← publishing_eq_false_iff, ← atBatchBoundary_iff, ← insideBatch_iff]
  refine ⟨fun hq => ?idle, fun r rest i hq hd hw ha => ?requested⟩
  case idle =>
    rw [step_idle hq]
    refine ⟨fun f => emulationMove_publishing, fun hp hb hrun => ?_, fun hp hb hrun => ?_, fun hp hb => ?_⟩
    · exact emulationMove_ended hp (by simp [State.emulationEnded, hrun, hb])
    · rw [emulationMove_running hp ((emulationEnded_eq_false_iff s).2 (.inl hrun)), ownIteration_outerLoop hb]
      rfl
    · rw [emulationMove_running hp ((emulationEnded_eq_false_iff s).2 (.inr hb)), ownIteration_insideBatch hb]
      rfl
  case requested =>
    refine ⟨fun f hl hf => ?_, fun hp hi hb => ?_, fun hp hb hrun => ?_⟩
    · rw [step_unfinished hq hd hw (unfinished_publishing ha ((publishing_iff s).2 ⟨f, hl⟩) hf), writerFinish_writer hl]
    · rw [step_unfinished hq hd hw (unfinished_insideBatch ha hi hp hb), ownIteration_insideBatch hb]
      rfl
    · have hfirst : unfinished i s = none := unfinished_emulation ha (by simp [hp]) fun _ => hb
      exact step_inert hq hd hw hfirst (by simp [State.inert, State.emulationEnded, ha, hp, hb, hrun])

/-- Settles O58: with nothing to do first, and for the emulation thread its existence, the operation runs in the readied state. -/
theorem stepRunsTheDecodedRequest : Obligations.StepRunsTheDecodedRequest := by
  intro s r rest hq
  dsimp only
  refine ⟨fun i hd hw => ⟨fun ha => ?_, fun ha hread hother => ?_, fun ha hcan => ?_⟩, fun i => step_illFormed hq,
    fun e => step_undecodable hq⟩
  · rw [step_ready hq hd hw (unfinished_startUp ha) (inert_of_agent (by simp [ha])), State.ready, ha]
    rfl
  · rw [step_ready hq hd hw (unfinished_presentation ha hread hother) (inert_of_agent (by simp [ha])), State.ready, ha]
    rfl
  · rw [← publishing_eq_false_iff, ← atBatchBoundary_iff, ← publishing_iff] at hcan
    obtain ⟨hfirst, hexists⟩ : unfinished i s = none ∧ s.inert i = false := by
      obtain ⟨hp, hrun, hb⟩ | ⟨hf, hp⟩ := hcan
      · have he : s.emulationEnded = false := (emulationEnded_eq_false_iff s).2 (by simpa using hrun)
        exact ⟨unfinished_emulation ha (by simp [hp]) hb, by simp [State.inert, he]⟩
      · have hbatch : isBatch i = true → s.atBatchBoundary = true := fun hi => by simp [isFinish_of_isBatch hi] at hf
        exact ⟨unfinished_emulation ha (fun _ => hf) hbatch, by simp [State.inert, hp]⟩
    rw [step_ready hq hd hw hfirst hexists, ready_emulation ha]
    rfl

end Sys2Proof.Machine
end

section
/-! PROOFS. The bridge's own operations (45_frame_bridge.md, sections 1 to 3): latch updates and the run flag, a publish and a
read in their parts, and what a step does with a request of the presentation thread. -/

namespace Sys2Proof.Machine

/-! ### The run flag and the latches -/

/-- Settles O48: the store to the flag is the whole of the operation. -/
theorem runClearClearsOnlyTheFlag : Obligations.RunClearClearsOnlyTheFlag := fun _ => rfl

theorem getLsbD_bitByte (k : Fin 8) (j : Nat) : (bitByte k).getLsbD j = decide (k.val = j) := by
  have hk := k.isLt
  rw [bitByte_eq_twoPow, BitVec.getLsbD_twoPow]
  by_cases h : k.val = j
  · simp [h ▸ hk, h]
  · simp [h]

/-- Rule R237, bit by bit. -/
theorem getLsbD_latchWithSet (mask b : Byte) (k : Fin 8) (j : Nat) : (latchWithSet mask b k).getLsbD j =
    if j = k.val ∧ mask.getLsbD k.val = false then true else b.getLsbD j := by
  rw [latchWithSet]
  cases mask.getLsbD k.val with
  | true => simp
  | false =>
    rw [if_neg (by simp), BitVec.getLsbD_or, getLsbD_bitByte]
    by_cases hj : j = k.val
    · simp [hj]
    · simp [hj, Ne.symm hj]

/-- Rule R238, bit by bit. -/
theorem getLsbD_latchWithClear (mask b : Byte) (k : Fin 8) {j : Nat} (hlt : j < 8) : (latchWithClear mask b k).getLsbD j =
    if j = k.val ∧ mask.getLsbD k.val = false then false else b.getLsbD j := by
  rw [latchWithClear]
  cases mask.getLsbD k.val with
  | true => simp
  | false =>
    rw [if_neg (by simp), BitVec.getLsbD_and, BitVec.getLsbD_not, getLsbD_bitByte]
    by_cases hj : j = k.val
    · simp [hj]
    · simp [hj, Ne.symm hj, hlt]

/-- Settles O47: the other latches are not written, and in the written one the bit rules decide. -/
theorem latchUpdatesChangeOneFreeBit : Obligations.LatchUpdatesChangeOneFreeBit := by
  intro s l k
  refine ⟨_, _, rfl, rfl, fun l' j hj => ?_⟩
  rw [LatchBytes.get_set, LatchBytes.get_set]
  by_cases hl : l' = l
  · subst hl
    rw [if_pos rfl, if_pos rfl, getLsbD_latchWithSet, getLsbD_latchWithClear _ _ _ hj]
    simp
  · simp [hl]

/-! ### A publish in parts -/

section
variable {s : State}

/-- The try-acquire takes a free lock (rule R231). -/
theorem writerAcquire_free (h : s.lock = .free) (f : Frame) : s.writerAcquire f = s.setLock (.heldByWriter f) := by
  rw [State.writerAcquire, h]

/-- The try-acquire skips the publish where the reader holds the lock (rules R231, R264). -/
theorem writerAcquire_reader (h : s.lock = .heldByReader) (f : Frame) :
    s.writerAcquire f = s.emit [.publishSkipped] := by
  rw [State.writerAcquire, h]

/-- A publish begun inside another completes that one first (rule R290). -/
theorem writerAcquire_writer {g : Frame} (h : s.lock = .heldByWriter g) (f : Frame) :
    s.writerAcquire f = s.writerFinish.setLock (.heldByWriter f) := by
  rw [State.writerAcquire, h]

/-- With no publish in progress its second part does nothing. -/
theorem writerFinish_idle (h : ∀ g, s.lock ≠ .heldByWriter g) : s.writerFinish = s := by
  cases hl : s.lock with
  | free => exact writerFinish_free hl
  | heldByReader => exact writerFinish_reader hl
  | heldByWriter g => exact absurd hl (h g)

end

/-- Settles O43: each part by what holds the lock; the parts in a row are the definition of the whole. -/
theorem publishPartsMakeAPublish : Obligations.PublishPartsMakeAPublish := by
  intro s src f
  have hf : s.sourceFrame src = f := by cases src <;> rfl
  have hwhole : exec (.publish src .whole) s = .next (s.publishFrame f) := hf ▸ rfl
  have hacquire : exec (.publish src .acquire) s = .next (s.writerAcquire f) := hf ▸ rfl
  have hfinish : exec (.publish src .finish) s = .next s.writerFinish := rfl
  rw [hwhole, hacquire, hfinish]
  refine ⟨fun hl => ?_, fun hl => ?_, fun g hl => ⟨?_, ?_, ?_⟩, fun hl => ?_, ?_⟩
  · rw [writerAcquire_free hl]; rfl
  · rw [writerAcquire_reader hl]; rfl
  · rw [writerFinish_writer hl]
  · rw [writerAcquire_writer hl, writerFinish_writer hl]; rfl
  · rw [publishFrame_writer hl]
  · rw [writerFinish_idle hl]
  · rw [runOps, hacquire]; rfl

/-! ### A read in parts, and presenting -/

section
variable {s : State}

/-- The reader's acquire takes a free lock and ends the wait (rule R232). -/
theorem readerAcquire_free (h : s.lock = .free) : s.readerAcquire = (s.setLock .heldByReader).setWaiting false := by
  rw [State.readerAcquire, h]

/-- A reader that holds the lock need not acquire it. -/
theorem readerAcquire_reader (h : s.lock = .heldByReader) : s.readerAcquire = s := by
  rw [State.readerAcquire, h]

/-- The reader waits for the writer (rule R232). -/
theorem readerAcquire_writer {g : Frame} (h : s.lock = .heldByWriter g) : s.readerAcquire = s.setWaiting true := by
  rw [State.readerAcquire, h]

end

/-! ### What the presentation thread does first -/

section
variable {s : State} {i : Instr} (ha : agentOf i = .presentation)
include ha

/-- The read that holds the lock ends before another operation of its thread (rule R290). -/
theorem unfinished_reading (hl : s.lock = .heldByReader) (hi : isRead i = false) :
    unfinished i s = some (.next s.readerFinish) := by
  simp [unfinished, ha, hl, hi]

/-- A waiting read goes on before another operation of its thread, once the lock is free (rule R290). -/
theorem unfinished_waiting (hl : s.lock = .free) (hw : s.readerWaiting = true) (hi : isRead i = false) :
    unfinished i s = some (.next s.readerAcquire) := by
  simp [unfinished, ha, hl, hi, hw]

/-- A read that has to wait lets the emulation thread complete its publish (rule R232; log 22). -/
theorem unfinished_blocked {g : Frame} (hl : s.lock = .heldByWriter g) (h : isRead i = true ∨ s.readerWaiting = true) :
    unfinished i s = some (.next (s.setWaiting true).writerFinish) := by
  have hwait : (s.readerWaiting || isRead i) = true := by simpa using h.symm
  simp [unfinished, ha, hl, hwait]

end

/-- Settles O44: the parts of a read by what holds the lock, and what a step completes first. -/
theorem readFrameReturnsMirrorUnderLock : Obligations.ReadFrameReturnsMirrorUnderLock := by
  intro s
  have hcomplete : exec (.readFrame .complete) s = .next s.readerAcquire.readerFinish := rfl
  have hacquire : exec (.readFrame .acquire) s = .next s.readerAcquire := rfl
  have hpresent : exec (.readFrame .present) s = .next s.readerFinish.present := rfl
  rw [hcomplete, hacquire, hpresent]
  refine ⟨fun hl => ?free, fun hl => ?reading, fun g hl => ?blocked, fun hl => ?present, fun r rest i hq hd hw ha => ?step⟩
  case free =>
    rw [readerAcquire_free hl, readerFinish_reader rfl]
    exact ⟨by rw [← hl]; rfl, rfl⟩
  case reading =>
    rw [readerAcquire_reader hl, readerFinish_reader hl, present_some rfl]
    exact ⟨rfl, rfl, by simp [State.emit]⟩
  case blocked =>
    rw [readerAcquire_writer hl, readerFinish_other (s := s.setWaiting true) (by simp [hl])]
    exact ⟨rfl, rfl⟩
  case present =>
    rw [readerFinish_other hl]
    exact ⟨fun f hf => by rw [present_some hf]; rfl, fun hf => by rw [present_none hf]⟩
  case step =>
    refine ⟨fun hl hi => ?_, fun hl hwait hi => ?_, fun g hl h => ?_⟩
    · rw [step_unfinished hq hd hw (unfinished_reading ha hl hi), readerFinish_reader hl]
    · rw [step_unfinished hq hd hw (unfinished_waiting ha hl hwait hi), readerAcquire_free hl]; rfl
    · rw [step_unfinished hq hd hw (unfinished_blocked ha hl h), writerFinish_writer (s := s.setWaiting true) hl]
      rfl

end Sys2Proof.Machine
end

section
/-! PROOFS. What a reader sees (45_frame_bridge.md, rules R233 and R241): every move's outputs tell what it does to the mirror
and to the frame read last, and a run's do so too. -/

namespace Sys2Proof.Machine

/-! ### Outputs that tell of the mirror -/

/-- An output that says what the mirror holds, or shows a frame taken from it. -/
def Output.ofBridge : Output → Bool
  | .published _ | .frameRead _ | .presented _ => true
  | _ => false

/-- A frame read is what the mirror holds, a frame presented the one read last (rules R232, R241). -/
def Output.FaithfulTo (mirror : Frame) (lastRead : Option Frame) : Output → Prop
  | .frameRead f => f = mirror
  | .presented f => some f = lastRead
  | _ => True

/-- Each output is faithful to what the outputs before it make of the mirror and of the last read. -/
def FaithfulOutputs (mirror : Frame) (lastRead : Option Frame) (os : List Output) : Prop :=
  ∀ before o after, os = before ++ o :: after → o.FaithfulTo (mirrorAfter mirror before) (lastReadAfter lastRead before)

theorem Output.faithfulTo_of_not_ofBridge {o : Output} (h : o.ofBridge = false) (m : Frame) (r : Option Frame) :
    o.FaithfulTo m r := by
  cases o with
  | published _ | frameRead _ | presented _ => cases h
  | _ => trivial

theorem mirrorAfter_append (m : Frame) (os os' : List Output) :
    mirrorAfter m (os ++ os') = mirrorAfter (mirrorAfter m os) os' := List.foldl_append

theorem lastReadAfter_append (r : Option Frame) (os os' : List Output) :
    lastReadAfter r (os ++ os') = lastReadAfter (lastReadAfter r os) os' := List.foldl_append

/-- Other outputs make nothing of the mirror and of the last read. -/
theorem after_of_not_ofBridge {os : List Output} (h : ∀ o ∈ os, o.ofBridge = false) (m : Frame) (r : Option Frame) :
    mirrorAfter m os = m ∧ lastReadAfter r os = r := by
  induction os with
  | nil => exact ⟨rfl, rfl⟩
  | cons o os ih =>
    obtain ⟨ho, hos⟩ := List.forall_mem_cons.1 h
    cases o with
    | published _ | frameRead _ | presented _ => cases ho
    | _ => exact ih hos

theorem faithfulOutputs_of_not_ofBridge {os : List Output} (h : ∀ o ∈ os, o.ofBridge = false) (m : Frame)
    (r : Option Frame) : FaithfulOutputs m r os := by
  rintro before o after rfl
  exact Output.faithfulTo_of_not_ofBridge (h o (by simp)) _ _

theorem faithfulOutputs_singleton {m : Frame} {r : Option Frame} {o : Output} (h : o.FaithfulTo m r) :
    FaithfulOutputs m r [o] := by
  intro before o' after he
  obtain ⟨rfl, rfl, rfl⟩ : before = [] ∧ o' = o ∧ after = [] := by
    simpa [List.singleton_eq_append_iff] using he
  exact h

theorem FaithfulOutputs.append {m : Frame} {r : Option Frame} {os os' : List Output} (h : FaithfulOutputs m r os)
    (h' : FaithfulOutputs (mirrorAfter m os) (lastReadAfter r os) os') : FaithfulOutputs m r (os ++ os') := by
  intro before o after he
  obtain ⟨mid, rfl, hos'⟩ | ⟨mid, rfl, hcons⟩ := List.append_eq_append_iff.1 he
  · rw [mirrorAfter_append, lastReadAfter_append]
    exact h' mid o after hos'
  · cases mid with
    | nil =>
      rw [List.append_nil] at h'
      exact h' [] o after hcons.symm
    | cons x mid =>
      obtain ⟨rfl, -⟩ := List.cons.inj hcons
      exact h before o mid rfl

/-! ### Moves whose outputs tell what they do -/

/-- The outputs made between `s` and `t` are faithful, and tell what became of the mirror and of the last read. -/
def Accounted (s t : State) : Prop :=
  ∃ os, t.trace = s.trace ++ os ∧ t.mirror = mirrorAfter s.mirror os ∧ t.lastRead = lastReadAfter s.lastRead os ∧
    FaithfulOutputs s.mirror s.lastRead os

namespace Accounted

theorem trans {s t u : State} (h₁ : Accounted s t) (h₂ : Accounted t u) : Accounted s u := by
  obtain ⟨os₁, ht₁, hm₁, hr₁, hf₁⟩ := h₁
  obtain ⟨os₂, ht₂, hm₂, hr₂, hf₂⟩ := h₂
  rw [hm₁] at hm₂ hf₂
  rw [hr₁] at hr₂ hf₂
  exact ⟨os₁ ++ os₂, by rw [ht₂, ht₁, List.append_assoc], by rw [hm₂, mirrorAfter_append],
    by rw [hr₂, lastReadAfter_append], hf₁.append hf₂⟩

/-- A move that leaves the mirror and the last read, and makes none of their outputs. -/
theorem quiet {s t : State} {os : List Output} (ht : t.trace = s.trace ++ os) (hos : ∀ o ∈ os, o.ofBridge = false)
    (hm : t.mirror = s.mirror) (hr : t.lastRead = s.lastRead) : Accounted s t := by
  obtain ⟨hmirror, hread⟩ := after_of_not_ofBridge hos s.mirror s.lastRead
  exact ⟨os, ht, hm.trans hmirror.symm, hr.trans hread.symm, faithfulOutputs_of_not_ofBridge hos _ _⟩

/-- A change of other fields only. -/
theorem of_eq {s t : State} (ht : t.trace = s.trace) (hm : t.mirror = s.mirror) (hr : t.lastRead = s.lastRead) :
    Accounted s t := quiet (os := []) (by simp [ht]) (by simp) hm hr

theorem refl (s : State) : Accounted s s := of_eq rfl rfl rfl

/-- A move with one output. -/
theorem single {s t : State} {o : Output} (ht : t.trace = s.trace ++ [o]) (hm : t.mirror = mirrorAfter s.mirror [o])
    (hr : t.lastRead = lastReadAfter s.lastRead [o]) (h : o.FaithfulTo s.mirror s.lastRead) : Accounted s t :=
  ⟨[o], ht, hm, hr, faithfulOutputs_singleton h⟩

end Accounted

theorem access_accounted (s : State) (addr : Addr) (x : Access) : Accounted s (s.access addr x) := by
  cases x with
  | read => exact .single rfl rfl rfl trivial
  | write v => exact .of_eq rfl rfl rfl

theorem memOp_accounted {s t : State} {op : MemOp} (h : s.memOp op = some t) : Accounted s t := by
  obtain ⟨os, ht, hos⟩ := memOp_frame h
  rw [ht]
  exact .quiet rfl (fun o ho => by obtain ⟨bs, rfl⟩ := hos o ho; rfl) rfl rfl

theorem writerFinish_accounted (s : State) : Accounted s s.writerFinish := by
  cases hl : s.lock with
  | free => rw [writerFinish_free hl]; exact .refl s
  | heldByReader => rw [writerFinish_reader hl]; exact .refl s
  | heldByWriter g => rw [writerFinish_writer hl]; exact .single rfl rfl rfl trivial

theorem writerAcquire_accounted (s : State) (f : Frame) : Accounted s (s.writerAcquire f) := by
  cases hl : s.lock with
  | free => rw [writerAcquire_free hl]; exact .of_eq rfl rfl rfl
  | heldByReader => rw [writerAcquire_reader hl]; exact .single rfl rfl rfl trivial
  | heldByWriter g =>
    rw [writerAcquire_writer hl]
    exact (writerFinish_accounted s).trans (.of_eq rfl rfl rfl)

theorem publishFrame_accounted (s : State) (f : Frame) : Accounted s (s.publishFrame f) :=
  (writerAcquire_accounted s f).trans (writerFinish_accounted _)

theorem readerAcquire_accounted (s : State) : Accounted s s.readerAcquire := by
  cases hl : s.lock with
  | free => rw [readerAcquire_free hl]; exact .of_eq rfl rfl rfl
  | heldByReader => rw [readerAcquire_reader hl]; exact .refl s
  | heldByWriter g => rw [readerAcquire_writer hl]; exact .of_eq rfl rfl rfl

/-- The reader that holds the lock reads the mirror (rule R232). -/
theorem readerFinish_accounted (s : State) : Accounted s s.readerFinish := by
  by_cases hl : s.lock = .heldByReader
  · rw [readerFinish_reader hl]; exact .single rfl rfl rfl rfl
  · rw [readerFinish_other hl]; exact .refl s

/-- What is presented is the frame read last (rule R241). -/
theorem present_accounted (s : State) : Accounted s s.present := by
  cases hf : s.lastRead with
  | none => rw [present_none hf]; exact .refl s
  | some f => rw [present_some hf]; exact .single rfl rfl rfl hf.symm

theorem endOfFrame_accounted (s : State) : Accounted s s.endOfFrame :=
  have mark : Accounted s ((s.setDisplayMark (clockAdd s.cfg s.nextDisplay s.cfg.framePeriodNs)).raiseInterrupt
    s.cfg.vecEof) := .single rfl rfl rfl trivial
  (mark.trans (publishFrame_accounted _ _)).trans (.single (o := .redraw) rfl rfl rfl trivial)

theorem frameEvent_accounted (s : State) : Accounted s s.frameEvent := by
  obtain ⟨-, h⟩ | ⟨-, -, h⟩ | ⟨-, -, h⟩ := frameEvent_cases s <;> rw [h]
  · exact endOfFrame_accounted s
  · exact .single rfl rfl rfl trivial
  · exact .refl s

theorem iteration_accounted {s t : State} {x : EngineAnswer} (h : s.iteration x = some t) : Accounted s t := by
  obtain ⟨u, os, rfl, hu, hos⟩ := iteration_cases h
  have hquiet : ∀ o ∈ os, o.ofBridge = false := fun o ho => by
    obtain ⟨_, rfl⟩ | ⟨_, rfl⟩ | ⟨_, rfl⟩ := hos o ho <;> rfl
  have before : Accounted s u := by rw [hu]; exact .quiet rfl hquiet rfl rfl
  exact before.trans (frameEvent_accounted u)

theorem iterations_accounted {xs : List EngineAnswer} {s t : State} (h : s.iterations xs = some t) : Accounted s t := by
  induction xs generalizing s with
  | nil => cases h; exact .refl _
  | cons x xs ih =>
    obtain ⟨u, hu, ht⟩ := iterations_cons_eq_some.1 h
    exact (iteration_accounted hu).trans (ih ht)

theorem execPublish_accounted {source : FrameSource} {part : PublishPart} {s t : State}
    (h : execPublish source part s = .next t) : Accounted s t := by
  cases part with
  | whole => cases h; exact publishFrame_accounted s _
  | acquire => cases h; exact writerAcquire_accounted s _
  | finish => cases h; exact writerFinish_accounted s

theorem execReadFrame_accounted {part : ReadPart} {s t : State} (h : execReadFrame part s = .next t) : Accounted s t := by
  cases part with
  | complete => cases h; exact (readerAcquire_accounted s).trans (readerFinish_accounted _)
  | acquire => cases h; exact readerAcquire_accounted s
  | present => cases h; exact (readerFinish_accounted s).trans (present_accounted _)

theorem execLoadProgram_accounted {image : Image} {s t : State} (h : execLoadProgram image s = .next t) :
    Accounted s t := by
  unfold execLoadProgram at h
  split_ifs at h
  cases h
  exact .of_eq rfl rfl rfl

/-- Every operation's outputs tell what it does to the mirror and to the last read. -/
theorem exec_accounted {i : Instr} {s t : State} (h : exec i s = .next t) : Accounted s t := by
  cases i with
  | outWatchdog _ | outOther _ _ | outShiftAmount _ | outShiftData _ | srFeed _ | srSetAmount _ | writeByte _ _
  | latchSet _ _ | latchClear _ _ | runClear => cases h; exact .of_eq rfl rfl rfl
  | outSoundBankA _ | outSoundBankB _ => cases h; exact .quiet rfl (by simp [Output.ofBridge]) rfl rfl
  | inSystem | inPlayer1 | inPlayer2 | inShiftResult | inOther _ | srRead | readByte _ | convert =>
    cases h; exact .single rfl rfl rfl trivial
  | regionProgram addr x | regionWorking addr x | regionVideo2400 addr x | regionVideo2800 addr x
  | regionVideo3000 addr x => cases h; exact access_accounted s addr x
  | readBytes addr n => exact memOp_accounted (op := .readBytes addr n) (orCrossing_eq_next.1 h)
  | writeBytes addr vs => exact memOp_accounted (op := .writeBytes addr vs) (orCrossing_eq_next.1 h)
  | loadProgram image => exact execLoadProgram_accounted h
  | schedIteration x => exact iteration_accounted (orCrossing_eq_next.1 h)
  | schedBatch xs =>
    have cleared : Accounted s (s.setBatch 0 0) := .of_eq rfl rfl rfl
    exact cleared.trans (iterations_accounted (orCrossing_eq_next.1 h))
  | publish source part => exact execPublish_accounted h
  | readFrame part => exact execReadFrame_accounted h

/-! ### Runs -/

/-- A run that completes is its first operation and the rest. -/
theorem runOps_cons_eq_next {i : Instr} {ops : List Instr} {s t : State} :
    runOps (i :: ops) s = .next t ↔ ∃ u, exec i s = .next u ∧ runOps ops u = .next t := by
  rw [runOps]
  cases exec i s <;> simp

theorem runOps_accounted {ops : List Instr} {s t : State} (h : runOps ops s = .next t) : Accounted s t := by
  induction ops generalizing s with
  | nil => cases h; exact .refl _
  | cons i ops ih =>
    obtain ⟨u, hu, ht⟩ := runOps_cons_eq_next.1 h
    exact (exec_accounted hu).trans (ih ht)

/-- Settles O45: the run's outputs tell what became of the mirror, and each frame among them is faithful to those before it. -/
theorem framesReadAreWholePublishedFrames : Obligations.FramesReadAreWholePublishedFrames := by
  intro ops s t h
  obtain ⟨os, htrace, hmirror, hread, hfaithful⟩ := runOps_accounted h
  refine ⟨os, htrace, hmirror, hread, fun before f after he => ?_, fun before f after he => ?_⟩
  · exact hfaithful before (.frameRead f) after (by simpa using he)
  · exact hfaithful before (.presented f) after (by simpa using he)

end Sys2Proof.Machine
end

section
/-! PROOFS. Dropped frames make no difference to the emulation thread (45_frame_bridge.md, rule R234): nothing it does reads the
mirror, the lock, the reader's fields or the outputs, so what is left of a state without them evolves by itself. -/

namespace Sys2Proof.Machine

/-! ### What is left of a state -/

/-- The state without the mirror, its lock, the reader's fields and the outputs (rule R234). -/
def State.emulationPart (s : State) : State :=
  { s with mirror := [], lock := .free, readerWaiting := false, lastRead := none, trace := [] }

theorem equalButMirror_iff {s t : State} : equalButMirror s t ↔ s.emulationPart = t.emulationPart := by
  constructor
  · intro h
    have hpart := congrArg State.emulationPart h
    exact hpart
  · intro h
    exact congrArg (fun u : State => { u with
      mirror := t.mirror, lock := t.lock, readerWaiting := t.readerWaiting, lastRead := t.lastRead, trace := t.trace }) h

@[simp] theorem emulationPart_cfg (s : State) : s.emulationPart.cfg = s.cfg := rfl
@[simp] theorem emulationPart_mem (s : State) : s.emulationPart.mem = s.mem := rfl

/-- Outcomes that are the same for the emulation thread stay so when a move that does not read the rest follows them. -/
theorem map_emulationPart_bind {a b : Option State} {f : State → Option State}
    (hab : a.map State.emulationPart = b.map State.emulationPart)
    (hf : ∀ t, (f t).map State.emulationPart = (f t.emulationPart).map State.emulationPart) :
    (a.bind f).map State.emulationPart = (b.bind f).map State.emulationPart := by
  have through (o : Option State) : (o.bind f).map State.emulationPart =
      (o.map State.emulationPart).bind fun t => (f t).map State.emulationPart := by
    rw [Option.map_bind, Option.bind_map]
    exact congrArg o.bind (funext hf)
  rw [through, through, hab]

/-! ### The emulation thread's moves -/

section
variable (s : State)

theorem memOp_emulationPart (op : MemOp) :
    (s.memOp op).map State.emulationPart = (s.emulationPart.memOp op).map State.emulationPart := by
  cases op with
  | readByte a | writeByte a v => rfl
  | readBytes a n =>
    simp only [State.memOp, State.loadBytes, emulationPart_cfg, emulationPart_mem]
    cases memRead s.cfg s.mem a n <;> rfl
  | writeBytes a vs =>
    simp only [State.memOp, State.storeBytes, emulationPart_cfg, emulationPart_mem]
    cases memWrite s.cfg s.mem a vs <;> rfl

theorem memOps_cons (op : MemOp) (ops : List MemOp) : s.memOps (op :: ops) = (s.memOp op).bind (·.memOps ops) := by
  rw [State.memOps]
  cases s.memOp op <;> rfl

theorem memOps_emulationPart (ops : List MemOp) :
    (s.memOps ops).map State.emulationPart = (s.emulationPart.memOps ops).map State.emulationPart := by
  induction ops generalizing s with
  | nil => rfl
  | cons op ops ih =>
    rw [memOps_cons, memOps_cons]
    exact map_emulationPart_bind (memOp_emulationPart s op) ih

theorem dispatch_emulationPart (q : IORequest) :
    (s.dispatch q).emulationPart = (s.emulationPart.dispatch q).emulationPart := by
  cases q with
  | idle | input p => rfl
  | output p b =>
    simp only [State.dispatch, State.output, emulationPart_cfg]
    cases selectOut s.cfg p <;> rfl

/-- Written or skipped, a publish leaves the emulation thread the end-of-frame mark alone (rules R204, R234). -/
theorem endOfFrame_emulationPart : s.endOfFrame.emulationPart =
    (s.setDisplayMark (clockAdd s.cfg s.nextDisplay s.cfg.framePeriodNs)).emulationPart := by
  obtain ⟨-, h⟩ | ⟨-, h⟩ | ⟨g, -, h⟩ := endOfFrame_cases s <;> rw [h] <;> rfl

theorem frameEvent_emulationPart : s.frameEvent.emulationPart = s.emulationPart.frameEvent.emulationPart := by
  rw [State.frameEvent, State.frameEvent, apply_ite State.emulationPart, apply_ite State.emulationPart,
    apply_ite State.emulationPart, apply_ite State.emulationPart, endOfFrame_emulationPart, endOfFrame_emulationPart]
  rfl

theorem afterStep_emulationPart (x : EngineAnswer) :
    (s.afterStep x).emulationPart = (s.emulationPart.afterStep x).emulationPart := by
  rw [State.afterStep, State.afterStep, frameEvent_emulationPart, dispatch_emulationPart]
  exact (frameEvent_emulationPart _).symm

theorem iteration_eq_bind (x : EngineAnswer) : s.iteration x = (s.seal.memOps x.memOps).bind fun t => some (t.afterStep x) := by
  rw [State.iteration]
  cases s.seal.memOps x.memOps <;> rfl

theorem iteration_emulationPart (x : EngineAnswer) :
    (s.iteration x).map State.emulationPart = (s.emulationPart.iteration x).map State.emulationPart := by
  rw [iteration_eq_bind, iteration_eq_bind]
  exact map_emulationPart_bind (memOps_emulationPart s.seal x.memOps) fun t => congrArg some (afterStep_emulationPart t x)

theorem iterations_emulationPart (xs : List EngineAnswer) :
    (s.iterations xs).map State.emulationPart = (s.emulationPart.iterations xs).map State.emulationPart := by
  induction xs generalizing s with
  | nil => rfl
  | cons x xs ih =>
    rw [iterations_cons, iterations_cons]
    exact map_emulationPart_bind (iteration_emulationPart s x) ih

end

/-! ### Runs -/

/-- Outcomes that are the same for the emulation thread complete together. -/
theorem orCrossing_of_map_emulationPart {a b : Option State} {t : State}
    (hab : a.map State.emulationPart = b.map State.emulationPart) (h : orCrossing a = .next t) : ∃ t', orCrossing b = .next t' ∧ t.emulationPart = t'.emulationPart := by
  rw [orCrossing_eq_next.1 h] at hab
  obtain ⟨t', hb, ht'⟩ := Option.map_eq_some_iff.1 hab.symm
  exact ⟨t', orCrossing_eq_next.2 hb, ht'.symm⟩

/-- The scheduler's operations do the same to states that are the same for the emulation thread. -/
theorem exec_scheduler_emulationPart {i : Instr} (hi : isScheduler i = true) {s s' t : State}
    (hs : s.emulationPart = s'.emulationPart) (h : exec i s = .next t) :
    ∃ t', exec i s' = .next t' ∧ t.emulationPart = t'.emulationPart := by
  cases i with
  | schedIteration x =>
    refine orCrossing_of_map_emulationPart ?_ h
    rw [iteration_emulationPart, hs, ← iteration_emulationPart]
  | schedBatch xs =>
    have hcleared : (s.setBatch 0 0).emulationPart = (s'.setBatch 0 0).emulationPart := congrArg (·.setBatch 0 0) hs
    refine orCrossing_of_map_emulationPart ?_ h
    rw [iterations_emulationPart, hcleared, ← iterations_emulationPart]
  | _ => cases hi

theorem readerAcquire_emulationPart (s : State) : s.readerAcquire.emulationPart = s.emulationPart := by
  cases hl : s.lock with
  | free => rw [readerAcquire_free hl]; rfl
  | heldByReader => rw [readerAcquire_reader hl]
  | heldByWriter g => rw [readerAcquire_writer hl]; rfl

theorem readerFinish_emulationPart (s : State) : s.readerFinish.emulationPart = s.emulationPart := by
  by_cases hl : s.lock = .heldByReader
  · rw [readerFinish_reader hl]; rfl
  · rw [readerFinish_other hl]

theorem present_emulationPart (s : State) : s.present.emulationPart = s.emulationPart := by
  cases hf : s.lastRead with
  | none => rw [present_none hf]
  | some f => rw [present_some hf]; rfl

/-- A reader's move is nothing to the emulation thread. -/
theorem execReadFrame_emulationPart {part : ReadPart} {s t : State} (h : execReadFrame part s = .next t) :
    t.emulationPart = s.emulationPart := by
  cases part with
  | complete => cases h; rw [readerFinish_emulationPart, readerAcquire_emulationPart]
  | acquire => cases h; exact readerAcquire_emulationPart s
  | present => cases h; rw [present_emulationPart, readerFinish_emulationPart]

/-- Settles O46: along the run the reader's moves keep what the emulation thread sees, and the scheduler's do the same to both
states. -/
theorem skippedPublishLeavesEmulationUnaffected : Obligations.SkippedPublishLeavesEmulationUnaffected := by
  intro ops s s' t hops hs h
  simp only [equalButMirror_iff] at hs ⊢
  induction ops generalizing s s' with
  | nil => cases h; exact ⟨s', rfl, hs⟩
  | cons i ops ih =>
    obtain ⟨hi, hrest⟩ := List.forall_mem_cons.1 hops
    obtain ⟨u, hu, ht⟩ := runOps_cons_eq_next.1 h
    obtain hsched | ⟨part, rfl⟩ := hi
    · obtain ⟨u', hu', hpart⟩ := exec_scheduler_emulationPart hsched hs hu
      obtain ⟨t', ht', hend⟩ := ih u u' hrest ht hpart
      rw [List.filter_cons_of_pos hsched]
      exact ⟨t', runOps_cons_eq_next.2 ⟨u', hu', ht'⟩, hend⟩
    · rw [List.filter_cons_of_neg (by simp [isScheduler])]
      exact ih u s' hrest ht ((execReadFrame_emulationPart hu).trans hs)

end Sys2Proof.Machine
end

section
/-! PROOFS. What each condition of 60_exceptions.md does (sections 1 to 4): one interrupt an iteration at most, the failed load, the
publish that finds the lock held, and which thread's operations may write what. -/

namespace Sys2Proof.Machine

/-! ### At most one interrupt in an iteration -/

/-- The interrupts among the outputs of one iteration, with the mid-frame mark where both marks are reached (rules R207, R253). -/
theorem iteration_interrupts {s t : State} {x : EngineAnswer} (h : s.iteration x = some t) {os : List Output}
    (hos : t.trace = s.trace ++ os) :
    (s.nextDisplay ≤ t.emuClock ∧ interruptVectors os = [s.cfg.vecEof] ∧ t.nextScreen = s.nextScreen) ∨
    (t.emuClock < s.nextDisplay ∧ (interruptVectors os = [s.cfg.vecMid] ∨ interruptVectors os = [])) := by
  have hmarks := iteration_marks h
  rw [hos, interruptVectors_append, List.append_right_inj, List.append_right_inj, List.append_right_eq_self] at hmarks
  obtain ⟨hdue, -, hscreen, hvectors⟩ | ⟨hahead, -, -, -, hvectors⟩ | ⟨hahead, -, -, -, hvectors⟩ := hmarks
  · exact .inl ⟨hdue, hvectors, hscreen⟩
  · exact .inr ⟨hahead, .inl hvectors⟩
  · exact .inr ⟨hahead, .inr hvectors⟩

/-- Settles O35: whether the end-of-frame mark is reached decides which interrupt there may be. -/
theorem atMostOneInterruptAnIteration : Obligations.AtMostOneInterruptAnIteration := by
  intro s t x h
  have ht : s.iteration x = some t := orCrossing_eq_next.1 h
  obtain ⟨os, hos⟩ := (iteration_extends ht).trace_eq
  refine ⟨os, hos, ?_⟩
  obtain ⟨-, hvectors, hscreen⟩ | ⟨hahead, hvectors | hvectors⟩ := iteration_interrupts ht hos
  · exact ⟨by simp [hvectors], fun _ _ => ⟨hvectors, hscreen⟩⟩
  · exact ⟨by simp [hvectors], fun hdue => absurd hdue (Nat.not_le.2 hahead)⟩
  · exact ⟨by simp [hvectors], fun hdue => absurd hdue (Nat.not_le.2 hahead)⟩

/-! ### A failed load -/

/-- Before the store is closed, an image of another length than PROG_SIZE is a `LoadFailure` (rule R261). -/
theorem execLoadProgram_wrong_length {s : State} {im : Image} (hopen : s.programSealed = false)
    (hlen : im.length ≠ s.cfg.progSize) : execLoadProgram im s = .fault (.loadFailure im.length) := by
  simp [execLoadProgram, hopen, hlen]

/-- Settles O23: emulator start with an image is a load on the reset state, whose store is open. -/
theorem wrongImageLengthIsLoadFailure : Obligations.WrongImageLengthIsLoadFailure := fun _ _ _ hlen =>
  ⟨fun hopen => execLoadProgram_wrong_length hopen hlen, execLoadProgram_wrong_length rfl hlen, 0, rfl⟩

/-! ### A publish, written or skipped -/

/-- Settles O42: what holds the lock decides, and the source's frame is the one published. -/
theorem publishWritesMirrorOrSkips : Obligations.PublishWritesMirrorOrSkips := by
  intro s src f
  have hf : s.sourceFrame src = f := by cases src <;> rfl
  have hwhole : exec (.publish src .whole) s = .next (s.publishFrame f) := hf ▸ rfl
  rw [hwhole]
  exact ⟨fun hl => by rw [publishFrame_free hl], fun hl => by rw [publishFrame_reader hl]⟩

/-- Whether the writer's moves write the mirror or skip it makes no difference to the emulation thread (rules R234, R264). -/
theorem writerFinish_emulationPart (s : State) : s.writerFinish.emulationPart = s.emulationPart := by
  cases hl : s.lock with
  | free => rw [writerFinish_free hl]
  | heldByReader => rw [writerFinish_reader hl]
  | heldByWriter g => rw [writerFinish_writer hl]; rfl

theorem writerAcquire_emulationPart (s : State) (f : Frame) : (s.writerAcquire f).emulationPart = s.emulationPart := by
  cases hl : s.lock with
  | free => rw [writerAcquire_free hl]; rfl
  | heldByReader => rw [writerAcquire_reader hl]; rfl
  | heldByWriter g => rw [writerAcquire_writer hl]; exact writerFinish_emulationPart s

theorem execPublish_emulationPart {source : FrameSource} {part : PublishPart} {s t : State}
    (h : execPublish source part s = .next t) : t.emulationPart = s.emulationPart := by
  cases part with
  | whole => cases h; exact (writerFinish_emulationPart _).trans (writerAcquire_emulationPart s _)
  | acquire => cases h; exact writerAcquire_emulationPart s _
  | finish => cases h; exact writerFinish_emulationPart s

/-! ### What the presentation thread leaves alone -/

theorem readerAcquire_mirror (s : State) : s.readerAcquire.mirror = s.mirror := by
  cases hl : s.lock with
  | free => rw [readerAcquire_free hl]; rfl
  | heldByReader => rw [readerAcquire_reader hl]
  | heldByWriter g => rw [readerAcquire_writer hl]; rfl

theorem readerFinish_mirror (s : State) : s.readerFinish.mirror = s.mirror := by
  by_cases hl : s.lock = .heldByReader
  · rw [readerFinish_reader hl]
  · rw [readerFinish_other hl]

theorem present_mirror (s : State) : s.present.mirror = s.mirror := by
  cases hf : s.lastRead with
  | none => rw [present_none hf]
  | some f => rw [present_some hf]; rfl

/-- A reader copies the mirror and never writes it (rule R232). -/
theorem execReadFrame_mirror {part : ReadPart} {s t : State} (h : execReadFrame part s = .next t) : t.mirror = s.mirror := by
  cases part with
  | complete => cases h; rw [readerFinish_mirror, readerAcquire_mirror]
  | acquire => cases h; exact readerAcquire_mirror s
  | present => cases h; rw [present_mirror, readerFinish_mirror]

/-- All that a reader's move changes: the lock, its own fields and the outputs (rules R232, R266). -/
theorem execReadFrame_frame {part : ReadPart} {s t : State} (h : execReadFrame part s = .next t) : t = { s with
    lock := t.lock, readerWaiting := t.readerWaiting, lastRead := t.lastRead, trace := t.trace } := by
  have hframe : equalButMirror s t := equalButMirror_iff.2 (execReadFrame_emulationPart h).symm
  rw [equalButMirror, execReadFrame_mirror h] at hframe
  exact hframe.symm

/-- Settles O51: a read leaves the emulation thread's fields and the mirror alone; the other operations write one field each. -/
theorem presentationTouchesOnlyTheBridge : Obligations.PresentationTouchesOnlyTheBridge := by
  intro i s t hi h
  cases i with
  | readFrame part => rw [execReadFrame_frame h]
  | latchSet _ _ | latchClear _ _ | runClear => cases h; rfl
  | _ => cases hi

/-! ### Who writes the clock -/

/-- What the scheduler keeps: the clock, its two marks and the pacing counters (rules R33, R34, R39). -/
def State.clockState (s : State) : Nat × Nat × Nat × Nat × Nat :=
  (s.emuClock, s.nextScreen, s.nextDisplay, s.batchStepsDone, s.batchNs)

theorem access_clockState (s : State) (addr : Addr) (x : Access) : (s.access addr x).clockState = s.clockState := by
  cases x <;> rfl

theorem memOp_clockState {s t : State} {op : MemOp} (h : s.memOp op = some t) : t.clockState = s.clockState := by
  obtain ⟨os, ht, -⟩ := memOp_frame h
  rw [ht]; rfl

theorem OnlyReads.clockState_eq {s t : State} (h : OnlyReads s t) : t.clockState = s.clockState := by
  obtain ⟨os, -, ht⟩ := h.frame
  rw [ht]; rfl

/-- Outside the scheduler no operation writes the clock, a mark or a pacing counter (rules R266, R267). -/
theorem exec_clockState {i : Instr} (hi : isScheduler i = false) {s t : State} (h : exec i s = .next t) :
    t.clockState = s.clockState := by
  cases i with
  | schedIteration _ | schedBatch _ => cases hi
  | outWatchdog _ | outOther _ _ | outShiftAmount _ | outShiftData _ | outSoundBankA _ | outSoundBankB _ | inSystem
  | inPlayer1 | inPlayer2 | inShiftResult | inOther _ | srFeed _ | srSetAmount _ | srRead | readByte _ | writeByte _ _
  | convert | latchSet _ _ | latchClear _ _ | runClear => cases h; rfl
  | regionProgram addr x | regionWorking addr x | regionVideo2400 addr x | regionVideo2800 addr x
  | regionVideo3000 addr x => cases h; exact access_clockState s addr x
  | readBytes addr n => exact memOp_clockState (op := .readBytes addr n) (orCrossing_eq_next.1 h)
  | writeBytes addr vs => exact memOp_clockState (op := .writeBytes addr vs) (orCrossing_eq_next.1 h)
  | loadProgram image => exact (execLoadProgram_onlyReads h).clockState_eq
  | publish source part =>
    have hkept := congrArg State.clockState (execPublish_emulationPart h)
    exact hkept
  | readFrame part => exact (execReadFrame_onlyReads h).clockState_eq

/-- Settles O52: the five fields are the whole of what the scheduler keeps. -/
theorem onlySchedulerWritesTheClock : Obligations.OnlySchedulerWritesTheClock := by
  intro i s t hi h
  have hkept := exec_clockState hi h
  simp only [State.clockState, Prod.mk.injEq] at hkept
  exact hkept

end Sys2Proof.Machine
end

section
/-! PROOFS. The round trip of the codec (30_encoding.md, sections 2, 3 and 7; the operand format is the model's own, log 1): every
operand reads back whatever follows it, and so does every request. -/

namespace Sys2Proof

/-! ### Operands of the engine's answer -/

/-- The bytes of a bulk write read back. -/
theorem parseBytes_encode (vs bs : List Byte) :
    parseList parseByte (encodeList (fun b => [b]) vs ++ bs) = .ok (vs, bs) :=
  parseList_encode vs (fun _ _ _ => rfl) bs

theorem parseMemOp_encode (op : MemOp) (bs : List Byte) : parseMemOp (encodeMemOp op ++ bs) = .ok (op, bs) := by
  cases op with
  | readByte a => simp [encodeMemOp, parseMemOp, parseAddr_encode]
  | writeByte a b => simp [encodeMemOp, parseMemOp, parseAddr_encode]
  | readBytes a n => simp [encodeMemOp, parseMemOp, parseAddr_encode, parseNat_encode]
  | writeBytes a vs => simp [encodeMemOp, parseMemOp, parseAddr_encode, parseBytes_encode]

theorem parseIORequest_encode (q : IORequest) (bs : List Byte) :
    parseIORequest (encodeIORequest q ++ bs) = .ok (q, bs) := by
  cases q with
  | idle => rfl
  | output p b => simp [encodeIORequest, parseIORequest, parseNat_encode]
  | input p => simp [encodeIORequest, parseIORequest, parseNat_encode]

theorem parseAnswer_encode (x : EngineAnswer) (bs : List Byte) : parseAnswer (encodeAnswer x ++ bs) = .ok (x, bs) := by
  have hops := parseList_encode x.memOps fun op _ => parseMemOp_encode op
  simp [encodeAnswer, parseAnswer, parseNat_encode, hops, parseIORequest_encode]

/-! ### Operands of the other direct operations -/

theorem parseCell_encode (x : Nat × Byte) (bs : List Byte) :
    parseCell ((encodeNat x.1 ++ [x.2]) ++ bs) = .ok (x, bs) := by
  simp [parseCell, parseNat_encode]

/-- The length PROG_SIZE is written as 0, which no other length is (log 1). -/
theorem parseImage_encode (c : Config) (im : Image) (bs : List Byte) :
    parseImage c (encodeImage c im ++ bs) = .ok (im, bs) := by
  have hcells := parseList_encode im.cells fun x _ => parseCell_encode x
  simp only [parseImage, encodeImage, List.append_assoc, parseNat_encode, andThen_ok, hcells]
  by_cases hlen : im.length = c.progSize
  · simp [← hlen]
  · simp [hlen]

theorem parsePixel_encode (p : Pixel) (bs : List Byte) : parsePixel (p.bytes ++ bs) = .ok (p, bs) := rfl

theorem parseSource_encode (f : FrameSource) (bs : List Byte) : parseSource (encodeSource f ++ bs) = .ok (f, bs) := by
  cases f with
  | fresh => rfl
  | given f =>
    have hpixels := parseList_encode f fun p _ => parsePixel_encode p
    simp [encodeSource, parseSource, hpixels]

theorem parsePublishPart_encode (p : PublishPart) (bs : List Byte) :
    parsePublishPart (encodePublishPart p :: bs) = .ok (p, bs) := by
  cases p <;> rfl

theorem parseReadPart_encode (p : ReadPart) (bs : List Byte) : parseReadPart (encodeReadPart p :: bs) = .ok (p, bs) := by
  cases p <;> rfl

theorem parseLatch_encode (l : Latch) (bs : List Byte) : parseLatch (encodeLatch l :: bs) = .ok (l, bs) := by
  cases l <;> rfl

theorem parseBit_encode (k : Fin 8) (bs : List Byte) : parseBit (encodeBit k :: bs) = .ok (k, bs) := by
  have hk : k.val % 256 = k.val := Nat.mod_eq_of_lt (by omega)
  simp [parseBit, encodeBit, hk]

/-! ### Requests -/

/-- A direct operation decodes if its operands read back (rule R105). -/
theorem decode_op {c : Config} {i : Instr} {id : Byte} {operands : List Byte}
    (h : ∀ bs, parseOpBody c id.toNat (operands ++ bs) = .ok (i, bs)) : decode c ⟨.op, id :: operands⟩ = .ok i := by
  have hnone := h []
  rw [List.append_nil] at hnone
  simp [decode, parseOp, hnone, finishParse]

/-- Settles O59: a port selects its own operation, an address its row, and an id the operands that follow it. -/
theorem decodeOfEncodeIsTheOperation : Obligations.DecodeOfEncodeIsTheOperation := by
  intro c i hc hw
  cases i with
  | outShiftAmount b | outSoundBankA b | outShiftData b | outSoundBankB b | outWatchdog b =>
    simp [encode, decode_outRequest, outInstr_eq_iff, selectOut_eq_iff hc]
  | outOther p b =>
    have hp : selectOut c p = .other := of_decide_eq_true hw
    simp [encode, decode_outRequest, outInstr, hp]
  | inSystem | inPlayer1 | inPlayer2 | inShiftResult =>
    simp [encode, decode_inRequest, inInstr_eq_iff, selectIn_eq_iff hc]
  | inOther p =>
    have hp : selectIn c p = .other := of_decide_eq_true hw
    simp [encode, decode_inRequest, inInstr, hp]
  | regionProgram a x | regionWorking a x | regionVideo2400 a x | regionVideo2800 a x | regionVideo3000 a x =>
    have ha := of_decide_eq_true hw
    simp [encode, decode_memRequest, memInstr, ha]
  | srFeed b | srSetAmount n | srRead | convert | runClear => rfl
  | readByte a => exact decode_op fun bs => by simp [parseOpBody, parseAddr_encode]
  | writeByte a b => exact decode_op fun bs => by simp [parseOpBody, parseAddr_encode]
  | readBytes a n => exact decode_op fun bs => by simp [parseOpBody, parseAddr_encode, parseNat_encode]
  | writeBytes a vs => exact decode_op fun bs => by simp [parseOpBody, parseAddr_encode, parseBytes_encode]
  | loadProgram im => exact decode_op fun bs => by simp [parseOpBody, parseImage_encode]
  | schedIteration x => exact decode_op fun bs => by simp [parseOpBody, parseAnswer_encode]
  | schedBatch xs =>
    have hlen : xs.length = c.batchSteps := of_decide_eq_true hw
    have hanswers := parseMany_encode xs fun x _ => parseAnswer_encode x
    exact decode_op fun bs => by simp [parseOpBody, ← hlen, hanswers]
  | publish f p => exact decode_op fun bs => by simp [parseOpBody, parseSource_encode, parsePublishPart_encode]
  | readFrame p => exact decode_op fun bs => by simp [parseOpBody, parseReadPart_encode]
  | latchSet l k => exact decode_op fun bs => by simp [parseOpBody, parseLatch_encode, parseBit_encode]
  | latchClear l k => exact decode_op fun bs => by simp [parseOpBody, parseLatch_encode, parseBit_encode]

end Sys2Proof
end

section
/-! PROOFS. More on the two sound banks (42_io_port_dispatcher.md, section 2): a repeated byte has no edge, and the events of one
write ascend by bit position. -/

namespace Sys2Proof.Machine

/-! ### A repeated byte -/

@[simp] theorem rise_self (b : Byte) : rise b b = 0 := by simp [rise]

@[simp] theorem fall_self (b : Byte) : fall b b = 0 := by simp [fall]

theorem soundAEvents_self (c : Config) (b : Byte) : soundAEvents c b b = [] :=
  List.flatMap_eq_nil_iff.2 fun k _ => by simp [soundAEventsAt]

theorem soundBEvents_self (c : Config) (b : Byte) : soundBEvents c b b = [] :=
  List.flatMap_eq_nil_iff.2 fun k _ => by simp [soundBEventsAt]

/-- Rule R156 for bank A. -/
theorem soundA_prevA (s : State) : s.soundA s.prevA = s := by
  simp [State.soundA, soundAEvents_self, State.setPrevA, State.emit]

/-- Rule R156 for bank B. -/
theorem soundB_prevB (s : State) : s.soundB s.prevB = s := by
  simp [State.soundB, soundBEvents_self, State.setPrevB, State.emit]

/-- Settles O9: the first write leaves its byte in the bank's latch, against which the second has no edge. -/
theorem sameSoundByteTwiceEmitsNothing : Obligations.SameSoundByteTwiceEmitsNothing := by
  intro s t b
  constructor
  · intro h
    cases h
    exact congrArg Host.Outcome.next (soundA_prevA (s.soundA b))
  · intro h
    cases h
    exact congrArg Host.Outcome.next (soundB_prevB (s.soundB b))

/-! ### The order of the events -/

/-- Events in rising positions, of distinct flags at each position, ascend: one position has one flag. -/
theorem ascending_byPosition {c : Config} {eventsAt : Nat → List Sound} (hbit : ∀ k, ∀ e ∈ eventsAt k, k = soundBit c e)
    (hflags : ∀ k, ((eventsAt k).map (soundBit c)).Nodup) :
    ((List.range 8).flatMap eventsAt).Pairwise fun x y => soundBit c x < soundBit c y := by
  refine List.pairwise_flatMap.2 ⟨fun k _ => ?_, List.pairwise_lt_range.imp ?_⟩
  · refine (List.pairwise_map.1 (hflags k)).imp_of_mem fun {x y} hx hy hne => ?_
    exact absurd ((hbit k x hx).symm.trans (hbit k y hy)) hne
  · intro j k hjk x hx y hy
    rwa [← hbit j x hx, ← hbit k y hy]

/-- A bit that was set does not rise. -/
theorem getLsbD_rise_of_set {prev : Byte} {k : Nat} (h : prev.getLsbD k = true) (byte : Byte) :
    (rise prev byte).getLsbD k = false := by simp [rise, h]

/-- A bit that was clear does not fall. -/
theorem getLsbD_fall_of_clear {prev : Byte} {k : Nat} (h : prev.getLsbD k = false) (byte : Byte) :
    (fall prev byte).getLsbD k = false := by simp [fall, h]

/-- The events of bank A at one position are at most one for each of the five flags: a bit that was set can only fall, one that
was clear only rise. -/
theorem soundAEventsAt_sublist (c : Config) (prev byte : Byte) (k : Nat) : ∃ u, soundBit c u = c.bitUfoLoop.val ∧
    (soundAEventsAt c prev byte k).Sublist [u, .shot, .flash, .invaderDie, .extendedPlay] := by
  have happend {ufo : List Sound} {u : Sound} (h : ufo.Sublist [u]) (p q r t : Prop) [Decidable p] [Decidable q] [Decidable r]
      [Decidable t] := (((h.append (optional_sublist p .shot)).append (optional_sublist q .flash)).append
    (optional_sublist r .invaderDie)).append (optional_sublist t .extendedPlay)
  cases hprev : prev.getLsbD k with
  | true =>
    refine ⟨.ufoLoopStop, rfl, happend ?_ _ _ _ _⟩
    simp only [getLsbD_rise_of_set hprev, Bool.false_eq_true, and_false, if_false, List.nil_append]
    exact optional_sublist _ _
  | false =>
    refine ⟨.ufoLoopStart, rfl, happend ?_ _ _ _ _⟩
    simp only [getLsbD_fall_of_clear hprev, Bool.false_eq_true, and_false, if_false, List.append_nil]
    exact optional_sublist _ _

theorem soundAEventsAt_flags {c : Config} (hc : c.SoundBitsOk) (prev byte : Byte) (k : Nat) :
    ((soundAEventsAt c prev byte k).map (soundBit c)).Nodup := by
  obtain ⟨u, hu, hsub⟩ := soundAEventsAt_sublist c prev byte k
  have hflags : ([u, .shot, .flash, .invaderDie, .extendedPlay].map (soundBit c)).Nodup := by
    rw [List.map_cons, hu]
    exact hc.1.map Fin.val_injective
  exact hflags.sublist (hsub.map (soundBit c))

theorem soundBEventsAt_flags {c : Config} (hc : c.SoundBitsOk) (prev byte : Byte) (k : Nat) :
    ((soundBEventsAt c prev byte k).map (soundBit c)).Nodup :=
  (hc.2.map Fin.val_injective).sublist <| List.Sublist.map (soundBit c) <|
    ((((optional_sublist _ .fleetStep1).append (optional_sublist _ .fleetStep2)).append (optional_sublist _ .fleetStep3)).append
      (optional_sublist _ .fleetStep4)).append (optional_sublist _ .ufoHit)

/-- Settles O10: the events are collected in rising positions, and distinct flags have distinct positions. -/
theorem soundEventsAscendByBitPosition : Obligations.SoundEventsAscendByBitPosition := fun s b hc =>
  ⟨soundAEvents s.cfg s.prevA b, soundBEvents s.cfg s.prevB b, rfl, rfl,
    ascending_byPosition (soundAEventsAt_bit s.cfg s.prevA b) (soundAEventsAt_flags hc s.prevA b),
    ascending_byPosition (soundBEventsAt_bit s.cfg s.prevB b) (soundBEventsAt_flags hc s.prevB b)⟩

end Sys2Proof.Machine
end

section
/-! PROOFS. The address patterns of the opcode table and the ranges that no region holds (20_memory.md, section 5; 30_encoding.md,
section 2): a pattern is a window range, and a crossing bulk range is refused. -/

namespace Sys2Proof

/-! ### Address patterns -/

/-- A mask of `k` adjacent bits from bit `j` up keeps the number that stands there. -/
theorem and_field_eq_iff (a : Addr) (j k v : Nat) (hmask : (2 ^ k - 1) * 2 ^ j < 2 ^ 16) (hvalue : v * 2 ^ j < 2 ^ 16) :
    a &&& BitVec.ofNat 16 ((2 ^ k - 1) * 2 ^ j) = BitVec.ofNat 16 (v * 2 ^ j) ↔ a.toNat / 2 ^ j % 2 ^ k = v := by
  have hfield : a.toNat &&& (2 ^ k - 1) * 2 ^ j = a.toNat / 2 ^ j % 2 ^ k * 2 ^ j := by
    rw [← Nat.shiftRight_eq_div_pow, ← Nat.and_two_pow_sub_one_eq_mod, ← Nat.shiftLeft_eq, ← Nat.shiftLeft_eq]
    apply Nat.eq_of_testBit_eq
    intro i
    by_cases hi : j ≤ i <;> simp [hi, Bool.and_comm]
  rw [← BitVec.toNat_inj, BitVec.toNat_and, BitVec.toNat_ofNat, BitVec.toNat_ofNat, Nat.mod_eq_of_lt hmask,
    Nat.mod_eq_of_lt hvalue, hfield]
  exact Nat.mul_left_inj (Nat.two_pow_pos j).ne'

/-- Rule R91's table: the patterns are five ranges of the window. -/
theorem memRow_eq_iff (addr : Addr) :
    (memRow addr = .program ↔ window addr < 0x2000) ∧
    (memRow addr = .working ↔ 0x2000 ≤ window addr ∧ window addr < 0x2400) ∧
    (memRow addr = .video2400 ↔ 0x2400 ≤ window addr ∧ window addr < 0x2800) ∧
    (memRow addr = .video2800 ↔ 0x2800 ≤ window addr ∧ window addr < 0x3000) ∧
    (memRow addr = .video3000 ↔ 0x3000 ≤ window addr) := by
  have h1 : addr &&& 0x2000 = 0 ↔ addr.toNat / 2 ^ 13 % 2 ^ 1 = 0 := and_field_eq_iff addr 13 1 0 (by decide) (by decide)
  have h2 : addr &&& 0x3C00 = 0x2000 ↔ addr.toNat / 2 ^ 10 % 2 ^ 4 = 8 := and_field_eq_iff addr 10 4 8 (by decide) (by decide)
  have h3 : addr &&& 0x3C00 = 0x2400 ↔ addr.toNat / 2 ^ 10 % 2 ^ 4 = 9 := and_field_eq_iff addr 10 4 9 (by decide) (by decide)
  have h4 : addr &&& 0x3800 = 0x2800 ↔ addr.toNat / 2 ^ 11 % 2 ^ 3 = 5 := and_field_eq_iff addr 11 3 5 (by decide) (by decide)
  simp only [memRow, h1, h2, h3, h4, window_eq_mod]
  -- each branch of the table has fixed the field, and with it the range of the window address
  split_ifs <;> simp <;> omega

end Sys2Proof

namespace Sys2Proof.Machine

/-- Under the recommended bounds an address inside a region decodes to it (rules R10, R91). -/
theorem recommended_regionOf {a : Nat} (r : Region)
    (h : Config.recommended.base r ≤ a ∧ a < Config.recommended.base r + Config.recommended.size r) :
    regionOf Config.recommended a = some r := regionOf_eq_some recommended_valid.1 h

/-- Settles O18: each pattern is a window range inside its region. -/
theorem addressPatternsAreTheRegions : Obligations.AddressPatternsAreTheRegions := by
  intro addr
  have hlt := window_lt addr
  have hmod : window addr = addr.toNat % 0x4000 := window_eq_mod addr
  simp only [← hmod, memRow_eq_iff]
  refine ⟨fun h => ⟨recommended_regionOf .program ?_, ?_⟩, fun h => ⟨recommended_regionOf .working ?_, ?_⟩,
    fun h => ⟨recommended_regionOf .video ?_, ?_⟩, fun h => ⟨recommended_regionOf .video ?_, ?_⟩,
    fun h => ⟨recommended_regionOf .video ?_, ?_⟩⟩
  all_goals simp only [Config.recommended, Config.base, Config.size]; omega

/-! ### Crossing bulk ranges -/

/-- A range with no defined effect has two bytes or more and lies in no region (rule R69). -/
theorem span_of_not_rangeDefined {c : Config} (hc : c.RegionsOk) {addr : Addr} {n : Nat} (h : ¬ rangeDefined c addr n) :
    1 < n ∧ spanRegion c (window addr) n = none := by
  have hn : 1 < n := Nat.lt_of_not_le fun hle => h (.inl hle)
  refine ⟨hn, Option.eq_none_iff_forall_ne_some.2 fun r hr => h (.inr ?_)⟩
  rw [← window_eq_mod]
  have hin := (spanRegion_eq_some hc (by omega)).1 hr
  cases r with
  | program => exact .inl hin
  | working => exact .inr (.inl hin)
  | video => exact .inr (.inr hin)

/-- Rule R69 for a bulk read. -/
theorem memRead_of_not_defined {c : Config} (hc : c.RegionsOk) (m : Memory) {addr : Addr} {n : Nat}
    (h : ¬ rangeDefined c addr n) : memRead c m addr n = none := by
  obtain ⟨hn, hspan⟩ := span_of_not_rangeDefined hc h
  unfold memRead
  rw [if_neg (by omega), hspan]
  exact if_neg fun hone => absurd hone.1 (by omega)

/-- Rule R69 for a bulk write. -/
theorem memWrite_of_not_defined {c : Config} (hc : c.RegionsOk) (m : Memory) {addr : Addr} {vs : List Byte}
    (h : ¬ rangeDefined c addr vs.length) : memWrite c m addr vs = none := by
  obtain ⟨hn, hspan⟩ := span_of_not_rangeDefined hc h
  unfold memWrite
  rw [if_neg (by omega), hspan]
  exact if_neg fun hone => absurd hone.1 (by omega)

/-- Settles O21: neither operation has an effect to complete with, and both then refuse for the range. -/
theorem bulkCrossingIsRefused : Obligations.BulkCrossingIsRefused := by
  intro s addr n vs hc
  refine ⟨fun h => ?_, fun h => ?_⟩
  · have hread := memRead_of_not_defined hc s.mem h
    simp [exec, execReadBytes, State.loadBytes, hread, orCrossing]
  · have hwrite := memWrite_of_not_defined hc s.mem h
    simp [exec, execWriteBytes, State.storeBytes, hwrite, orCrossing]

end Sys2Proof.Machine
end
